-- ==== Sys2Proof/Word.lean ====
section
/-! DEFINITION. The words of the block: bytes and 26-byte frames (spec/00_scope.md R8). -/

namespace Sys2Proof

/-- A byte, an integer 0..255 (R8); bit 0 is the least significant (R9). -/
abbrev Byte := BitVec 8

/-- A frame: exactly 26 bytes, offsets 0..25 (R8, R50). -/
abbrev Frame := Vector Byte 26

/-- The 23 body lanes of the operation port, frame offsets 2..24 (R6 `BODY_LEN`, R79). -/
abbrev Body := Vector Byte 23

/-- `zeros(26)` (R8). -/
abbrev zeroFrame : Frame := Vector.replicate 26 0

end Sys2Proof
end

