-- ==== Sys2Proof/Config.lean ====
section
/-! DEFINITION. What an implementation fixes: the parameters of spec/00_scope.md R7 as plain data.
The block has no undefined result (spec/93_implementation_defined.md, part 1), so there is no free
value here. Default values stand in Machine/Constants.lean. -/

namespace Sys2Proof

/-- `TIE_RULE`, the tie-breaking rule of ENCNUM's rounding (R7, R14, decision D9). -/
inductive TieRule where
  | halfEven
  | halfAway
  deriving DecidableEq, Repr

/-- One entry of `STATUS_LAYOUT`: a frame offset and a width in bytes (R73). -/
structure FieldAt where
  off : Nat
  width : Nat
  deriving DecidableEq, Repr

/-- `STATUS_LAYOUT`: where a status response carries its status byte and its five numbers
(R7, R73, decision D21). -/
structure StatusLayout where
  measI : FieldAt
  measV : FieldAt
  status : FieldAt
  tgtI : FieldAt
  maxV : FieldAt
  tgtV : FieldAt
  deriving DecidableEq, Repr

/-- The open parameters of the block (R7). `MAX_EXTRA_W` is settled at 16 bits (decision D18) and
`ADDR_RESET` at 0, so they are no fields. -/
structure Params where
  tieRule : TieRule
  layout : StatusLayout
  deriving DecidableEq, Repr

end Sys2Proof
end

