-- ==== Sys2Proof/Syntax.lean ====
section
/-! DEFINITION. The instructions: one constructor for each of the 41 rows of
spec/opcode_table.json (spec/00_scope.md R2), and the shapes in which the ports present them. -/

namespace Sys2Proof

/-- The scanner's phases (spec/10_state.md R25). They stand here because the table's two RX_BYTE
rows are told apart by the phase. -/
inductive ScPhase where
  | idle
  | fill
  | hunt
  | done
  deriving DecidableEq, Repr

/-- One constructor per row of the opcode table, in the table's order. -/
inductive Instr where
  -- block operations, selected by op_sel (spec/30_encoding.md R80)
  | nop
  | cfgSetAddr (aIn : Byte)
  | build (bodyIn : Body) (nIn : Nat)
  | checksum (frameIn : Frame)
  | check (frameIn : Frame)
  | encnum (numIn : Rat) (wIn : BitVec 3)
  | decnum (frameIn : Frame) (offIn : BitVec 5) (wIn : BitVec 3)
  | send (frameIn : Frame)
  | scanStart (mIn : BitVec 16)
  | ackMatch (frameIn : Frame)
  | statusDecode (frameIn : Frame)
  | reservedOpB
  | reservedOpC
  | reservedOpD
  | reservedOpE
  | reservedOpF
  -- port events, handshakes on their own ports (R79, R80)
  | rxByteFill (rxData : Byte)
  | rxByteHunt (rxData : Byte)
  | rxTimeout
  | txByte
  -- wire opcodes (R75; spec/41_wire_commands.md)
  | remoteEnable (en : Bool)
  | outputEnable (en : Bool)
  | setLimitV (v : Rat)
  | setOutputV (v : Rat)
  | setOutputI (a : Rat)
  | setAddress (newAddr : Byte)
  | readConfig
  | calMode (payload : List Byte)
  | calState (payload : List Byte)
  | calReadV (payload : List Byte)
  | calSendV (payload : List Byte)
  | calReadI (payload : List Byte)
  | calSendI (payload : List Byte)
  | calSaveData (payload : List Byte)
  | calSetInfo (payload : List Byte)
  | calReadInfo (payload : List Byte)
  | readID (payload : List Byte)
  | calReset (payload : List Byte)
  | enaLocalKey (payload : List Byte)
  | returnInfo (addr : Byte) (ack : Byte) (rest : Vector Byte 22)
  | startByte
  deriving DecidableEq, Repr

/-- The signals of one port handshake (R79): the transport offers `rxData` with rx_valid, pulses
rx_timeout, or asserts tx_ready. -/
inductive PortEvent where
  | rx (rxData : Byte)
  | timeout
  | txReady
  deriving DecidableEq, Repr

/-- What the ports show for one instruction: a transaction's image, or a handshake. -/
inductive Sample where
  | word (img : List Byte)
  | event (e : PortEvent)
  deriving DecidableEq, Repr

/-- One thing the environment does (R79, R251, R84): a transaction on the operation port, rx_valid
with the oldest byte of the receive channel, an rx_timeout pulse, tx_ready, bytes that arrive in
the receive channel, or rst. -/
inductive PortInput where
  | word (img : List Byte)
  | rxValid
  | timeout
  | txReady
  | arrive (bytes : List Byte)
  | rst
  deriving DecidableEq, Repr

end Sys2Proof
end

