-- ==== Sys2Proof/Machine/Constants.lean ====
section
/-! DEFINITION. The hard-wired constants of the block (spec/10_state.md R24, spec/00_scope.md R6),
the wire opcode table (spec/30_encoding.md R75), the default parameters (R7), and two fixed shapes of bytes. -/

namespace Sys2Proof.Machine

/-- The start marker (R6). -/
def marker : Byte := 0xAA
/-- The return-info opcode (R6). -/
def returnInfoCode : Byte := 0x12
/-- The ack code that means success (R6). -/
def ackOk : Byte := 0x80
/-- "No valid ack yet observed" (R6). -/
def ackSentinel : Byte := 0xFF
/-- Wire integers are milli-units (R6 `SCALE`). -/
def scale : Nat := 1000
/-- `ADDR_RESET` (R7). -/
def addrReset : Byte := 0x00

/-! The wire opcode table, R75. -/

def codeRemoteEnable : Byte := 0x20
def codeOutputEnable : Byte := 0x21
def codeSetLimitV : Byte := 0x22
def codeSetOutputV : Byte := 0x23
def codeSetOutputI : Byte := 0x24
def codeSetAddress : Byte := 0x25
def codeReadConfig : Byte := 0x26
def codeCalMode : Byte := 0x27
def codeCalState : Byte := 0x28
def codeCalReadV : Byte := 0x29
def codeCalSendV : Byte := 0x2A
def codeCalReadI : Byte := 0x2B
def codeCalSendI : Byte := 0x2C
def codeCalSaveData : Byte := 0x2D
def codeCalSetInfo : Byte := 0x2E
def codeCalReadInfo : Byte := 0x2F
def codeReadID : Byte := 0x31
def codeCalReset : Byte := 0x32
def codeEnaLocalKey : Byte := 0x37

/-- The default `STATUS_LAYOUT`, the table of R73 (PRESUMED: from general knowledge, I10; log 13). -/
def defaultLayout : StatusLayout where
  measI := ⟨3, 2⟩
  measV := ⟨5, 4⟩
  status := ⟨9, 1⟩
  tgtI := ⟨10, 2⟩
  maxV := ⟨12, 4⟩
  tgtV := ⟨16, 4⟩

/-- The default parameters (R7; log 13). -/
def defaultParams : Params where
  tieRule := .halfEven
  layout := defaultLayout

/-- Listed body bytes in the 23 lanes, the rest zero: `BUILD [b0, b1, ...]` (spec/30_encoding.md
R84, "n = count of bytes listed (0..23); rest zero"). -/
def bodyOf (bytes : List Byte) : Body := Vector.ofFn fun i => bytes.getD i.val 0

/-- An acknowledgement frame (R72): marker, device address, return-info opcode, ack code, and the
22 bytes of offsets 4..25. Offsets 0 and 2 are fixed, whatever an image's frame lane holds there
(log 30). -/
def ackFrame (addr ack : Byte) (rest : Vector Byte 22) : Frame :=
  Vector.ofFn fun i =>
    if h : i.val < 4 then #v[marker, addr, returnInfoCode, ack][i.val] else rest[i.val - 4]

end Sys2Proof.Machine
end

