-- ==== Sys2Proof/WellFormed.lean ====
section
/-! DEFINITION. Which instructions the operation port can carry (spec/30_encoding.md R82). Every
other operand bound is the width of its type. -/

namespace Sys2Proof

/-- A raw payload has at most 22 bytes (spec/41_wire_commands.md R137): with its opcode it fills
the 23 body lanes. -/
def payloadFits (payload : List Byte) : Bool := decide (payload.length ≤ 22)

/-- R82: `n_in ≤ 23`, and payloads of at most 22 bytes. -/
def Instr.wellFormed : Instr → Bool
  | .build _ nIn => decide (nIn ≤ 23)
  | .calMode p => payloadFits p
  | .calState p => payloadFits p
  | .calReadV p => payloadFits p
  | .calSendV p => payloadFits p
  | .calReadI p => payloadFits p
  | .calSendI p => payloadFits p
  | .calSaveData p => payloadFits p
  | .calSetInfo p => payloadFits p
  | .calReadInfo p => payloadFits p
  | .readID p => payloadFits p
  | .calReset p => payloadFits p
  | .enaLocalKey p => payloadFits p
  | .nop | .cfgSetAddr _ | .checksum _ | .check _ | .encnum _ _ | .decnum _ _ _ | .send _
  | .scanStart _ | .ackMatch _ | .statusDecode _ | .reservedOpB | .reservedOpC | .reservedOpD
  | .reservedOpE | .reservedOpF | .rxByteFill _ | .rxByteHunt _ | .rxTimeout | .txByte
  | .remoteEnable _ | .outputEnable _ | .setLimitV _ | .setOutputV _ | .setOutputI _
  | .setAddress _ | .readConfig | .returnInfo _ _ _ | .startByte => true

end Sys2Proof
end

