-- ==== Sys2Proof/Decode.lean ====
section
/-! DEFINITION. From the ports' signals to an instruction and back.

A transaction's image is a list of bytes: a selector byte, then every lane of the operation port
(spec/30_encoding.md R79) in the order `a_in`, `n_in`, `body_in`, `frame_in`, `w_in`, `off_in`,
`m_in`, `num_in`. The selector is `op_sel` (R80) with a zero high nibble, or a wire opcode (R75).
The order and widths of the lanes are the model's (DESIGN CHOICE, log 4); the selector's values are
the spec's. Lanes that an operation does not name are ignored (R79). The port events have no word:
they decode from their handshake and the scanner's phase (R80, R172, R173, R176, R111). -/

namespace Sys2Proof

/-- Why a transaction's image or a handshake is no instruction. Every case is one the ports cannot
carry (R82), so the step refuses it (safe). -/
inductive DecodeError where
  /-- the image ends before its last lane -/
  | truncated
  /-- the image goes on after its last lane -/
  | trailing
  /-- the first byte is neither an `op_sel` value nor a wire opcode of R75 -/
  | unlistedSelector (sel : Byte)
  /-- `n_in` over the lanes: over 23 for BUILD, over 22 for a raw payload -/
  | countOverLanes (n : Nat)
  /-- a byte holds more than the 3 bits of `w_in` or the 5 bits of `off_in` -/
  | laneTooWide (lane : Byte)
  /-- a boolean that is neither 0x00 nor 0x01 (R78) -/
  | notBoolean (lane : Byte)
  /-- the handshake moves nothing in this phase (R177, R111) -/
  | eventNotEnabled
  deriving DecidableEq, Repr

/-! ## The lanes -/

/-- Every lane of one transaction (R79). -/
structure Lanes where
  sel : Byte
  a : Byte
  n : Byte
  body : Body
  frame : Frame
  w : BitVec 3
  off : BitVec 5
  m : BitVec 16
  num : Rat
  deriving DecidableEq, Repr

/-- All lanes at 0 behind a selector. -/
def Lanes.zero (sel : Byte) : Lanes :=
  { sel := sel, a := 0, n := 0, body := Vector.replicate 23 0, frame := zeroFrame, w := 0,
    off := 0, m := 0, num := 0 }

/-- Seven bits a byte, the least significant first; a set bit 7 says that more follow. The first
argument bounds the number of bytes. -/
def natBytes : Nat → Nat → List Byte
  | 0, x => [BitVec.ofNat 8 (x % 128)]
  | fuel + 1, x =>
    if x < 128 then [BitVec.ofNat 8 x]
    else BitVec.ofNat 8 (128 + x % 128) :: natBytes fuel (x / 128)

/-- Read one number of `natBytes`, and the bytes after it. -/
def readNat : List Byte → Option (Nat × List Byte)
  | [] => none
  | b :: rest =>
    if b.toNat < 128 then some (b.toNat, rest)
    else
      match readNat rest with
      | some (x, rest') => some (b.toNat - 128 + 128 * x, rest')
      | none => none

/-- A sign in the least significant place: 0, -1, 1, -2, ... become 0, 1, 2, 3, ... -/
def signFold : Int → Nat
  | .ofNat x => 2 * x
  | .negSucc x => 2 * x + 1

/-- The inverse of `signFold`. -/
def signUnfold (x : Nat) : Int :=
  if x % 2 = 0 then .ofNat (x / 2) else .negSucc (x / 2)

/-- The lane of an exact rational: its folded numerator, then its denominator less one. -/
def ratBytes (v : Rat) : List Byte :=
  natBytes (signFold v.num) (signFold v.num) ++ natBytes (v.den - 1) (v.den - 1)

/-- Read an exact rational, and the bytes after it. -/
def readRat (img : List Byte) : Option (Rat × List Byte) :=
  match readNat img with
  | none => none
  | some (x, rest) =>
    match readNat rest with
    | none => none
    | some (d, rest') => some (mkRat (signUnfold x) (d + 1), rest')

/-- Take `k` bytes as a vector, if there are that many. -/
def readBytes (k : Nat) (img : List Byte) : Option (Vector Byte k × List Byte) :=
  if h : (img.take k).length = k then some (⟨(img.take k).toArray, by simpa using h⟩, img.drop k)
  else none

/-- The lanes of a transaction's image. -/
def readLanes : List Byte → Except DecodeError Lanes
  | sel :: a :: n :: img =>
    match readBytes 23 img with
    | none => .error .truncated
    | some (body, img) =>
      match readBytes 26 img with
      | none => .error .truncated
      | some (frame, w :: off :: m0 :: m1 :: img) =>
        match readRat img with
        | none => .error .truncated
        | some (num, rest) =>
          if rest ≠ [] then .error .trailing
          else if 8 ≤ w.toNat then .error (.laneTooWide w)
          else if 32 ≤ off.toNat then .error (.laneTooWide off)
          else
            .ok { sel := sel, a := a, n := n, body := body, frame := frame, w := w.setWidth 3,
                  off := off.setWidth 5, m := m1 ++ m0, num := num }
      | some _ => .error .truncated
  | _ => .error .truncated

/-- The image of a transaction's lanes. -/
def laneBytes (l : Lanes) : List Byte :=
  l.sel :: l.a :: l.n :: (l.body.toList ++ (l.frame.toList ++
    (l.w.setWidth 8 :: l.off.setWidth 8 :: l.m.setWidth 8 :: (l.m >>> 8).setWidth 8 ::
      ratBytes l.num)))

/-! ## Decoding -/

/-- The boolean of a wire command: 0x01 true, 0x00 false (R78). -/
def readBool (b : Byte) : Except DecodeError Bool :=
  if b = 0x00 then .ok false else if b = 0x01 then .ok true else .error (.notBoolean b)

/-- The raw payload of a wire command: the first `n_in` body lanes, at most 22 (R137). -/
def readPayload (l : Lanes) : Except DecodeError (List Byte) :=
  if l.n.toNat ≤ 22 then .ok (l.body.toList.take l.n.toNat) else .error (.countOverLanes l.n.toNat)

/-- The instruction that the lanes select: the operation map R80, R81 and the wire opcode map R75.
Behind the selector 0x12 the frame lane gives the address, the ack code and offsets 4..25; its offsets
0 and 2 are ignored, and 0xAA and 0x12 stand in the frame that is judged (DESIGN CHOICE, log 30: R149
says nothing of a ReturnInfo frame with other bytes there). -/
def decodeLanes (l : Lanes) : Except DecodeError Instr :=
  match l.sel.toNat with
  | 0x00 => .ok .nop
  | 0x01 => .ok (.cfgSetAddr l.a)
  | 0x02 =>
    if l.n.toNat ≤ 23 then .ok (.build l.body l.n.toNat) else .error (.countOverLanes l.n.toNat)
  | 0x03 => .ok (.checksum l.frame)
  | 0x04 => .ok (.check l.frame)
  | 0x05 => .ok (.encnum l.num l.w)
  | 0x06 => .ok (.decnum l.frame l.off l.w)
  | 0x07 => .ok (.send l.frame)
  | 0x08 => .ok (.scanStart l.m)
  | 0x09 => .ok (.ackMatch l.frame)
  | 0x0A => .ok (.statusDecode l.frame)
  | 0x0B => .ok .reservedOpB
  | 0x0C => .ok .reservedOpC
  | 0x0D => .ok .reservedOpD
  | 0x0E => .ok .reservedOpE
  | 0x0F => .ok .reservedOpF
  | 0x20 => (readBool l.a).map .remoteEnable
  | 0x21 => (readBool l.a).map .outputEnable
  | 0x22 => .ok (.setLimitV l.num)
  | 0x23 => .ok (.setOutputV l.num)
  | 0x24 => .ok (.setOutputI l.num)
  | 0x25 => .ok (.setAddress l.a)
  | 0x26 => .ok .readConfig
  | 0x27 => (readPayload l).map .calMode
  | 0x28 => (readPayload l).map .calState
  | 0x29 => (readPayload l).map .calReadV
  | 0x2A => (readPayload l).map .calSendV
  | 0x2B => (readPayload l).map .calReadI
  | 0x2C => (readPayload l).map .calSendI
  | 0x2D => (readPayload l).map .calSaveData
  | 0x2E => (readPayload l).map .calSetInfo
  | 0x2F => (readPayload l).map .calReadInfo
  | 0x31 => (readPayload l).map .readID
  | 0x32 => (readPayload l).map .calReset
  | 0x37 => (readPayload l).map .enaLocalKey
  | 0x12 => .ok (.returnInfo l.frame[1] l.frame[3] (Vector.ofFn fun i => l.frame[i.val + 4]))
  | 0xAA => .ok .startByte
  | _ => .error (.unlistedSelector l.sel)

/-- Decode a transaction's image. Total: an image that is no instruction is rejected by name. -/
def decode (img : List Byte) : Except DecodeError Instr :=
  match readLanes img with
  | .ok l => decodeLanes l
  | .error e => .error e

/-- Decode a handshake, as the table's match column has it: `rx_valid & rx_ready` with SC_PHASE
FILL or HUNT (R172, R173; rx_ready in no other phase, R177), `rx_timeout` (R176), and
`tx_valid & tx_ready` with `tx_valid = TX_BUSY` (R111). -/
def decodeEvent (phase : ScPhase) (txBusy : Bool) : PortEvent → Option Instr
  | .rx b =>
    match phase with
    | .fill => some (.rxByteFill b)
    | .hunt => some (.rxByteHunt b)
    | .idle => none
    | .done => none
  | .timeout => some .rxTimeout
  | .txReady =>
    match txBusy with
    | true => some .txByte
    | false => none

/-- Decode whatever the ports show. -/
def decodeSample (phase : ScPhase) (txBusy : Bool) : Sample → Except DecodeError Instr
  | .word img => decode img
  | .event e =>
    match decodeEvent phase txBusy e with
    | some i => .ok i
    | none => .error .eventNotEnabled

/-! ## Encoding -/

/-- The boolean byte of R78. -/
def boolByte (b : Bool) : Byte := if b then 0x01 else 0x00

/-- The lanes of a command with a raw payload. -/
def payloadLanes (code : Byte) (payload : List Byte) : Lanes :=
  { Lanes.zero code with n := BitVec.ofNat 8 payload.length, body := Machine.bodyOf payload }

/-- The lanes of a command with a boolean. -/
def boolLanes (code : Byte) (en : Bool) : Lanes := { Lanes.zero code with a := boolByte en }

/-- The lanes of a command with a number. -/
def numLanes (code : Byte) (v : Rat) : Lanes := { Lanes.zero code with num := v }

/-- The image with these lanes. -/
def wordOf (l : Lanes) : Sample := .word (laneBytes l)

/-- What the ports show for an instruction: its image, or its handshake. -/
def encode : Instr → Sample
  | .nop => wordOf (Lanes.zero 0x00)
  | .cfgSetAddr a => wordOf { Lanes.zero 0x01 with a := a }
  | .build body n => wordOf { Lanes.zero 0x02 with body := body, n := BitVec.ofNat 8 n }
  | .checksum f => wordOf { Lanes.zero 0x03 with frame := f }
  | .check f => wordOf { Lanes.zero 0x04 with frame := f }
  | .encnum v w => wordOf { Lanes.zero 0x05 with num := v, w := w }
  | .decnum f off w => wordOf { Lanes.zero 0x06 with frame := f, off := off, w := w }
  | .send f => wordOf { Lanes.zero 0x07 with frame := f }
  | .scanStart m => wordOf { Lanes.zero 0x08 with m := m }
  | .ackMatch f => wordOf { Lanes.zero 0x09 with frame := f }
  | .statusDecode f => wordOf { Lanes.zero 0x0A with frame := f }
  | .reservedOpB => wordOf (Lanes.zero 0x0B)
  | .reservedOpC => wordOf (Lanes.zero 0x0C)
  | .reservedOpD => wordOf (Lanes.zero 0x0D)
  | .reservedOpE => wordOf (Lanes.zero 0x0E)
  | .reservedOpF => wordOf (Lanes.zero 0x0F)
  | .rxByteFill b => .event (.rx b)
  | .rxByteHunt b => .event (.rx b)
  | .rxTimeout => .event .timeout
  | .txByte => .event .txReady
  | .remoteEnable en => wordOf (boolLanes Machine.codeRemoteEnable en)
  | .outputEnable en => wordOf (boolLanes Machine.codeOutputEnable en)
  | .setLimitV v => wordOf (numLanes Machine.codeSetLimitV v)
  | .setOutputV v => wordOf (numLanes Machine.codeSetOutputV v)
  | .setOutputI a => wordOf (numLanes Machine.codeSetOutputI a)
  | .setAddress a => wordOf { Lanes.zero Machine.codeSetAddress with a := a }
  | .readConfig => wordOf (Lanes.zero Machine.codeReadConfig)
  | .calMode p => wordOf (payloadLanes Machine.codeCalMode p)
  | .calState p => wordOf (payloadLanes Machine.codeCalState p)
  | .calReadV p => wordOf (payloadLanes Machine.codeCalReadV p)
  | .calSendV p => wordOf (payloadLanes Machine.codeCalSendV p)
  | .calReadI p => wordOf (payloadLanes Machine.codeCalReadI p)
  | .calSendI p => wordOf (payloadLanes Machine.codeCalSendI p)
  | .calSaveData p => wordOf (payloadLanes Machine.codeCalSaveData p)
  | .calSetInfo p => wordOf (payloadLanes Machine.codeCalSetInfo p)
  | .calReadInfo p => wordOf (payloadLanes Machine.codeCalReadInfo p)
  | .readID p => wordOf (payloadLanes Machine.codeReadID p)
  | .calReset p => wordOf (payloadLanes Machine.codeCalReset p)
  | .enaLocalKey p => wordOf (payloadLanes Machine.codeEnaLocalKey p)
  | .returnInfo addr ack rest =>
    wordOf { Lanes.zero Machine.returnInfoCode with frame := Machine.ackFrame addr ack rest }
  | .startByte => wordOf (Lanes.zero Machine.marker)

/-- The phase and TX_BUSY under which the ports carry an instruction: a row of the table with a
handshake is matched only while that handshake is possible (the match column of R172, R173 and
R111's rows). -/
def Instr.portOpen (phase : ScPhase) (txBusy : Bool) : Instr → Bool
  | .rxByteFill _ => decide (phase = .fill)
  | .rxByteHunt _ => decide (phase = .hunt)
  | .txByte => txBusy
  | _ => true

/-! ## The opcode table's numbering of bits -/

/-- How many bytes the shortest image has: 56 fixed lanes' bytes and the rational 0. -/
def shortImage : Nat := 58

/-- The image whose first `nbits` bits are `w`, bit 0 the least significant of the first byte, and
whose other lanes are 0. -/
def wordImage (nbits w : Nat) : List Byte :=
  (List.range shortImage).map fun i => BitVec.ofNat 8 ((w % 2 ^ nbits) >>> (8 * i))

/-- The instruction that the decoder reads from the bits `w` of an opcode-table row. -/
def decodeTableWord (nbits w : Nat) : Option Instr :=
  match decode (wordImage nbits w) with
  | .ok i => some i
  | .error _ => none

end Sys2Proof
end

