-- ==== Sys2Proof/Machine/State.lean ====
section
/-! DEFINITION. The machine's state as plain data: the block's registers (spec/10_state.md R20), the
parameters (spec/00_scope.md R7), the result port (spec/30_encoding.md R79), and the channels and
inputs around the block (R34; spec/60_exceptions.md R243, R251, R259). There is no addressable
memory (spec/20_memory.md R50), so the state has no memory. -/

namespace Sys2Proof.Machine

/-- The registers, all of R20 and no other. The counters are bounded integers (R20, R22), kept so
by the invariant of Sys2Proof/Safety.lean (log 27). -/
structure Regs where
  /-- `ADDR` (R23) -/
  addr : Byte
  /-- `SC_PHASE` (R25) -/
  scPhase : ScPhase
  /-- `SC_WIN`, oldest byte at 0 -/
  scWin : Frame
  /-- `SC_FILL`, 0..26 -/
  scFill : Nat
  /-- `SC_EXTRA` -/
  scExtra : Nat
  /-- `SC_MAX`, of `MAX_EXTRA_W` = 16 bits (D18) -/
  scMax : BitVec 16
  /-- `SC_COUNT` -/
  scCount : Nat
  /-- `SC_FRAME` (R26) -/
  scFrame : Frame
  /-- `SC_SYNC` (R26) -/
  scSync : Bool
  /-- `SC_TMO` (R26) -/
  scTmo : Bool
  /-- `TX_BUF` (R28) -/
  txBuf : Frame
  /-- `TX_IDX`, 0..26 (R28) -/
  txIdx : Nat
  /-- `TX_BUSY` (R28) -/
  txBusy : Bool
  deriving DecidableEq, Repr

/-- The error codes of R241; the numbers are in Machine/Flags.lean. -/
inductive ErrCode where
  | none
  | framingLoss
  | addrMismatch
  | opcodeMismatch
  | checksumMismatch
  | nack
  | range
  | badOperand
  | illegalOp
  | busy
  deriving DecidableEq, Repr

/-- The decoded output mode (R32, R205). -/
inductive OutputMode where
  | cv
  | cc
  | ur
  deriving DecidableEq, Repr

/-- The decoded operation state (R32, R207). -/
inductive OperationState where
  | remote
  | frontPanel
  deriving DecidableEq, Repr

/-- The status snapshot (R33): each numeric field as the raw integer and as the exact rational. -/
structure Snapshot where
  address : Byte
  echoedCmd : Byte
  outputEnable : Bool
  overHeat : Bool
  outputMode : OutputMode
  fanSpeed : Nat
  operationState : OperationState
  outputCurrentRaw : Nat
  outputVoltageRaw : Nat
  targetCurrentRaw : Nat
  targetVoltageRaw : Nat
  maximumVoltageRaw : Nat
  outputCurrent : Rat
  outputVoltage : Rat
  targetCurrent : Rat
  targetVoltage : Rat
  maximumVoltage : Rat
  deriving DecidableEq, Repr

/-- The result port (R79). -/
structure Outputs where
  frame : Frame
  byte : Byte
  ok : Bool
  matched : Bool
  ack : Byte
  bytes : List Byte
  raw : Nat
  scaled : Rat
  snap : Snapshot
  err : ErrCode
  deriving DecidableEq, Repr

/-- The snapshot lanes when no operation drives them: 0, false and the decodings of 0 (R79; log 12). -/
def Snapshot.undriven : Snapshot where
  address := 0
  echoedCmd := 0
  outputEnable := false
  overHeat := false
  outputMode := .ur
  fanSpeed := 0
  operationState := .frontPanel
  outputCurrentRaw := 0
  outputVoltageRaw := 0
  targetCurrentRaw := 0
  targetVoltageRaw := 0
  maximumVoltageRaw := 0
  outputCurrent := 0
  outputVoltage := 0
  targetCurrent := 0
  targetVoltage := 0
  maximumVoltage := 0

/-- "Any result an operation does not define is driven as 0, false, zeros or empty" (R79), and
`out.err = NONE` (R100). -/
def Outputs.undriven : Outputs where
  frame := zeroFrame
  byte := 0
  ok := false
  matched := false
  ack := 0
  bytes := []
  raw := 0
  scaled := 0
  snap := .undriven
  err := .none

/-- The whole state. -/
structure State where
  /-- the block's registers (R20) -/
  regs : Regs
  /-- the parameters (R7); no instruction and no reset changes them (log 13) -/
  params : Params
  /-- the result port in the current step (R79, R30; log 11) -/
  out : Outputs
  /-- the results of the run's operations, oldest first (R259) -/
  results : List Outputs
  /-- the receive channel: delivered and not yet pulled, oldest first (R34) -/
  rxChannel : List Byte
  /-- the transmit channel: pushed by TX_BYTE, oldest first (R12, R58) -/
  txChannel : List Byte
  /-- the model's schedule of inputs: cycles of simultaneous inputs, each cycle in the order in
  which its inputs are applied (R243 (c); log 3) -/
  inputs : List (List PortInput)
  deriving DecidableEq, Repr

/-- Why the machine stops with a fault. -/
inductive Fault where
  /-- TX_BYTE while TX_BUSY is 1 and TX_IDX is beyond offset 25, which does not exist (R50). Raised
  by `execTxByte`. Safe: no run reaches such a state (R28, R22; log 16). -/
  | frameOffset (off : Nat)
  deriving DecidableEq, Repr

/-- Why the model has no meaning to give. -/
inductive Refusal where
  /-- no meaning yet; raised by `exec` alone -/
  | notModelled (mnemonic : String)
  /-- the ports cannot carry it (R82: "A model refuses n > 23 at the interface"). Raised by the
  step for an image that does not decode, and by a meaning for an ill-formed instruction. Safe. -/
  | notExpressible (why : DecodeError)
  /-- STATUS_DECODE under a STATUS_LAYOUT that fails R212: "A model refuses a layout that fails
  these checks." Raised by `execStatusDecode`. Safe. -/
  | layoutNotAdmitted
  deriving DecidableEq, Repr

/-- The registers after reset, the table of R36. -/
def Regs.reset : Regs where
  addr := addrReset
  scPhase := .idle
  scWin := zeroFrame
  scFill := 0
  scExtra := 0
  scMax := 0
  scCount := 0
  scFrame := zeroFrame
  scSync := false
  scTmo := false
  txBuf := zeroFrame
  txIdx := 26
  txBusy := false

/-- The machine right after reset (R36, R280) with the default parameters and empty channels
(DESIGN CHOICE, log 20): the environment has done nothing yet. -/
def State.reset : State where
  regs := .reset
  params := defaultParams
  out := .undriven
  results := []
  rxChannel := []
  txChannel := []
  inputs := []

end Sys2Proof.Machine
end

