-- ==== Sys2Proof/Machine/Operands.lean ====
section
/-! DEFINITION. The operand forms: fields of a frame, little-endian numbers, widths, rounding, scaling
and the status layout. -/

namespace Sys2Proof.Machine

/-- `f[off]`. Every offset a rule uses is within the frame (spec/20_memory.md R50): a constant, an
entry of an admitted layout, or DECNUM's `off` after its check; beyond the frame this reads 0. -/
def byteAt (f : Frame) (off : Nat) : Byte := f.toList.getD off 0

/-- `f[off .. off+width-1]`. -/
def fieldBytes (f : Frame) (off width : Nat) : List Byte := (f.toList.drop off).take width

/-- `le_value` (spec/00_scope.md R11): unsigned, the byte at the lowest offset least significant. -/
def leValue : List Byte → Nat
  | [] => 0
  | b :: rest => b.toNat + 256 * leValue rest

/-- `le_bytes_w` (R11): `w` bytes of `x mod 256^w`, least significant first (R63). -/
def leBytes (w : Nat) (x : Int) : List Byte :=
  (List.range w).map fun i => BitVec.ofNat 8 ((x % 256 ^ w).toNat >>> (8 * i))

/-- `w_in ∈ {1,2,3,4}` (spec/30_encoding.md R82). -/
def legalWidth (w : BitVec 3) : Bool := decide (1 ≤ w.toNat ∧ w.toNat ≤ 4)

/-- `off_in + w_in ≤ 26` (R82). -/
def fieldFits (off : BitVec 5) (w : BitVec 3) : Bool := decide (off.toNat + w.toNat ≤ 26)

/-- `round_T` of the rational `n / d` (spec/00_scope.md R14): the nearest integer, a tie decided by
the rule. `n / d` rounds down, so a remainder of half the denominator is a tie between `n / d` and
the integer above it. -/
def roundRatio (tie : TieRule) (n : Int) (d : Nat) : Int :=
  let low := n / d
  let twice := 2 * (n % d)
  if twice < d then low
  else if (d : Int) < twice then low + 1
  else
    match tie with
    | .halfEven => if low % 2 = 0 then low else low + 1
    | .halfAway => if 0 ≤ n then low + 1 else low

/-- `round_T(x)` (R14). -/
def roundTie (tie : TieRule) (x : Rat) : Int := roundRatio tie x.num x.den

/-- `round_T(v * 1000)`, the wire integer of a physical value (spec/30_encoding.md R77). -/
def rawOf (tie : TieRule) (v : Rat) : Int := roundRatio tie (v.num * scale) v.den

/-- `raw / 1000`, exactly (spec/40_codec.md R109). -/
def scaledOf (raw : Nat) : Rat := mkRat raw scale

/-! ## STATUS_LAYOUT (spec/43_validators.md R212) -/

/-- The field lies within offsets 3..24. -/
def fieldInArea (k : FieldAt) : Bool := decide (3 ≤ k.off ∧ k.off + k.width ≤ 25)

/-- The two fields share no offset. -/
def fieldsApart (j k : FieldAt) : Bool := decide (j.off + j.width ≤ k.off ∨ k.off + k.width ≤ j.off)

/-- A numeric width is in {1,2,3,4}. -/
def numericWidth (k : FieldAt) : Bool := decide (1 ≤ k.width ∧ k.width ≤ 4)

/-- The five numeric fields. -/
def numberFields (l : StatusLayout) : List FieldAt := [l.measI, l.measV, l.tgtI, l.maxV, l.tgtV]

/-- No two fields of the list overlap. -/
def allApart : List FieldAt → Bool
  | [] => true
  | k :: rest => rest.all (fieldsApart k) && allApart rest

/-- R212: every field within 3..24, the status field of width 1, each numeric width 1..4, and no
two fields overlapping. -/
def layoutAdmitted (l : StatusLayout) : Bool :=
  (l.status :: numberFields l).all fieldInArea && decide (l.status.width = 1) &&
    (numberFields l).all numericWidth && allApart (l.status :: numberFields l)

/-! ## The device status byte (spec/10_state.md R32; spec/43_validators.md R204 to R207) -/

/-- Bits 3:2: 1 is CV, 2 is CC, 0 and 3 are UR (R205). -/
def outputModeOf (s : Byte) : OutputMode :=
  if s.extractLsb 3 2 = 0b01#2 then .cv else if s.extractLsb 3 2 = 0b10#2 then .cc else .ur

/-- Bits 6:4 as an integer (R206). -/
def fanSpeedOf (s : Byte) : Nat := (s.extractLsb 6 4).toNat

/-- Bit 7: remote control or front panel (R207). -/
def operationStateOf (s : Byte) : OperationState := if s.getLsbD 7 then .remote else .frontPanel

/-- `raw_k = le_value(f[off .. off+w-1])` (R208). -/
def rawField (f : Frame) (k : FieldAt) : Nat := leValue (fieldBytes f k.off k.width)

/-- `decode_status(f)` under a layout (R204 to R209). -/
def decodeStatus (l : StatusLayout) (f : Frame) : Snapshot :=
  let s := byteAt f l.status.off
  { address := byteAt f 1
    echoedCmd := byteAt f 2
    outputEnable := s.getLsbD 0
    overHeat := s.getLsbD 1
    outputMode := outputModeOf s
    fanSpeed := fanSpeedOf s
    operationState := operationStateOf s
    outputCurrentRaw := rawField f l.measI
    outputVoltageRaw := rawField f l.measV
    targetCurrentRaw := rawField f l.tgtI
    targetVoltageRaw := rawField f l.tgtV
    maximumVoltageRaw := rawField f l.maxV
    outputCurrent := scaledOf (rawField f l.measI)
    outputVoltage := scaledOf (rawField f l.measV)
    targetCurrent := scaledOf (rawField f l.tgtI)
    targetVoltage := scaledOf (rawField f l.tgtV)
    maximumVoltage := scaledOf (rawField f l.maxV) }

end Sys2Proof.Machine
end

