-- ==== Sys2Proof/Machine/Flags.lean ====
section
/-! DEFINITION. The checksum, the verdicts and error classes of the validators, the numbers of the
error codes, and the STATUS_FLAGS view. -/

namespace Sys2Proof.Machine

/-- `cksum(f)` (spec/00_scope.md R13, spec/30_encoding.md R74): the sum of offsets 0..24, mod 256. -/
def cksum (f : Frame) : Byte := BitVec.ofNat 8 (((f.toList.take 25).map BitVec.toNat).sum)

/-- `out.err[3:0]` (spec/60_exceptions.md R241); codes 10 to 15 are never driven. -/
def ErrCode.code : ErrCode → BitVec 4
  | .none => 0
  | .framingLoss => 1
  | .addrMismatch => 2
  | .opcodeMismatch => 3
  | .checksumMismatch => 4
  | .nack => 5
  | .range => 6
  | .badOperand => 7
  | .illegalOp => 8
  | .busy => 9

/-- `matched` of ACK_MATCH (spec/43_validators.md R200). -/
def ackMatched (addr : Byte) (f : Frame) : Bool :=
  decide (f[0] = marker ∧ f[1] = addr ∧ f[2] = returnInfoCode)

/-- The ack code ACK_MATCH reports: offset 3 of a matched frame, else the sentinel (R200). -/
def ackOf (addr : Byte) (f : Frame) : Byte := if ackMatched addr f then f[3] else ackSentinel

/-- `ack_class(f)` (R201): the first test that fails names the error. -/
def ackClass (addr : Byte) (f : Frame) : ErrCode :=
  if f[0] ≠ marker then .framingLoss
  else if f[1] ≠ addr then .addrMismatch
  else if f[2] ≠ returnInfoCode then .opcodeMismatch
  else if f[3] ≠ ackOk then .nack
  else .none

/-- `valid` of STATUS_DECODE (R202). -/
def statusValid (addr : Byte) (f : Frame) : Bool :=
  decide (f[0] = marker ∧ f[1] = addr ∧ f[25] = cksum f)

/-- `status_class(f)` (R203). -/
def statusClass (addr : Byte) (f : Frame) : ErrCode :=
  if f[0] ≠ marker then .framingLoss
  else if f[1] ≠ addr then .addrMismatch
  else if f[25] ≠ cksum f then .checksumMismatch
  else .none

/-- The scanner is busy in FILL and HUNT (spec/10_state.md R25). -/
def scanBusy (r : Regs) : Bool := decide (r.scPhase = .fill ∨ r.scPhase = .hunt)

/-- The scan has ended (R29 `SC_DONE`). -/
def scanDone (r : Regs) : Bool := decide (r.scPhase = .done)

/-- `STATUS_FLAGS` (R29), a view: bit 0 SC_BUSY, 1 SC_DONE, 2 SC_SYNC, 3 SC_TMO, 4 TX_BUSY, bits
7:5 read as 0. -/
def statusFlags (r : Regs) : BitVec 8 :=
  0#3 ++ (BitVec.ofBool r.txBusy ++ (BitVec.ofBool r.scTmo ++ (BitVec.ofBool r.scSync ++
    (BitVec.ofBool (scanDone r) ++ BitVec.ofBool (scanBusy r)))))

/-- `rx_ready` (spec/42_scanner.md R177). -/
def rxReady (r : Regs) : Bool := scanBusy r

/-- `tx_valid` (spec/40_codec.md R111). -/
def txValid (r : Regs) : Bool := r.txBusy

/-- `tx_data = TX_BUF[TX_IDX]` (R111), where that offset exists. -/
def txData (r : Regs) : Option Byte := r.txBuf[r.txIdx]?

end Sys2Proof.Machine
end

