-- ==== Sys2Proof/Machine/Ops.lean ====
section
/-! DEFINITION. The operations the meanings share: driving results, raising an error (the block's
only form of exception: spec/60_exceptions.md R240), the channels, frames, and reset. -/

namespace Sys2Proof.Machine

/-- What every meaning answers. -/
abbrev Answer := Host.Outcome State Fault Refusal

/-- Drive the result port for this operation and record the result (spec/40_codec.md R100;
spec/60_exceptions.md R259). -/
def drive (r : Outputs) (s : State) : State := { s with out := r, results := s.results ++ [r] }

/-- `raise Err(code)` with nothing else driven (spec/00_scope.md R12, R100): no state is saved, no
mode changes, control does not move (R240). There is no return from it (R247). -/
def raiseErr (e : ErrCode) (s : State) : Answer := .next (drive { Outputs.undriven with err := e } s)

/-- An operation that drives no result of its own: everything at its default (R100). -/
def driveNothing (s : State) : State := drive .undriven s

/-- Nothing is driven: "driven on the result port for that operation only and not held"
(spec/10_state.md R30). The record of results (R259) stays. -/
def undrive (s : State) : State := { s with out := .undriven }

/-! ## Channels -/

/-- The transport delivers bytes: they join the receive channel behind the others (R34, R58). -/
def deliver (bytes : List Byte) (s : State) : State := { s with rxChannel := s.rxChannel ++ bytes }

/-- `RxPull()` of the byte on `rx_data` (R12, R57): it is the channel's oldest byte, which is
consumed; with an empty channel the transport delivers it in this very handshake. No other byte
can be on `rx_data` (log 10). -/
def rxPull (b : Byte) (s : State) : Option State :=
  match s.rxChannel with
  | [] => some s
  | oldest :: rest => if oldest = b then some { s with rxChannel := rest } else none

/-- `TxPush(b)` (R12). -/
def txPush (b : Byte) (s : State) : State := { s with txChannel := s.txChannel ++ [b] }

/-! ## Frames -/

/-- `body` of BUILD: the lanes below `n_in`, then zeros (R103). -/
def countedBody (bodyIn : Body) (nIn : Nat) : Body :=
  Vector.ofFn fun i => if i.val < nIn then bodyIn[i] else 0

/-- Set the checksum at offset 25 (R6 `CKSUM_OFF`). -/
def sealFrame (f : Frame) : Frame := f.set 25 (cksum f)

/-- Marker at offset 0, address at 1, the body at 2..24 (R103); the checksum is still missing. -/
def openFrame (addr : Byte) (body : Body) : Frame :=
  Vector.ofFn fun i =>
    if i.val = 0 then marker
    else if i.val = 1 then addr
    else if h : i.val - 2 < 23 then body[i.val - 2]
    else 0

/-- The frame of BUILD (R103, R71). -/
def buildFrame (addr : Byte) (bodyIn : Body) (nIn : Nat) : Frame :=
  sealFrame (openFrame addr (countedBody bodyIn nIn))

/-- `SC_WIN[1..25] ++ [b]` (spec/42_scanner.md R172). -/
def shiftIn (win : Frame) (b : Byte) : Frame :=
  Vector.ofFn fun i => if h : i.val + 1 < 26 then win[i.val + 1] else b

/-! ## Reset -/

/-- `rst` (spec/70_reset_and_hazards.md R280): every register takes its reset value; the channels,
the parameters and what has been observed stay (log 21). -/
def applyReset (s : State) : State := undrive { s with regs := .reset }

end Sys2Proof.Machine
end

