-- ==== Sys2Proof/Machine/Codec.lean ====
section
/-! DEFINITION. The frame codec's operations (spec/40_codec.md R101 to R111), the transmit event, and
the reserved operations (spec/30_encoding.md R81). -/

namespace Sys2Proof.Machine

/-- NOP (R101): `skip`. -/
def execNop (s : State) : Answer := .next (driveNothing s)

/-- CFG_SET_ADDR (R102): `ADDR <- a_in`. -/
def execCfgSetAddr (aIn : Byte) (s : State) : Answer :=
  .next (driveNothing { s with regs := { s.regs with addr := aIn } })

/-- What BUILD drives (R103). -/
def buildResult (addr : Byte) (bodyIn : Body) (nIn : Nat) : Outputs :=
  { Outputs.undriven with frame := buildFrame addr bodyIn nIn }

/-- BUILD (R103). The port has 23 lanes, so a larger count is refused (R82; log 15). -/
def execBuild (bodyIn : Body) (nIn : Nat) (s : State) : Answer :=
  if nIn ≤ 23 then .next (drive (buildResult s.regs.addr bodyIn nIn) s)
  else .refused (.notExpressible (.countOverLanes nIn))

/-- CHECKSUM (R104). -/
def execChecksum (frameIn : Frame) (s : State) : Answer :=
  .next (drive { Outputs.undriven with byte := cksum frameIn } s)

/-- What CHECK drives (R105). -/
def checkResult (frameIn : Frame) : Outputs :=
  if frameIn[25] = cksum frameIn then { Outputs.undriven with ok := true }
  else { Outputs.undriven with err := .checksumMismatch }

/-- CHECK (R105). -/
def execCheck (frameIn : Frame) (s : State) : Answer := .next (drive (checkResult frameIn) s)

/-- What ENCNUM drives for a rounded integer at a legal width (R106): the wrapped value and its
bytes, and whether it is in range; `RANGE` does not withhold them. -/
def encnumDriven (raw : Int) (width : Nat) : Outputs :=
  let inRange := decide (0 ≤ raw ∧ raw < 256 ^ width)
  { Outputs.undriven with
    raw := (raw % 256 ^ width).toNat
    bytes := leBytes width raw
    ok := inRange
    err := if inRange then .none else .range }

/-- What ENCNUM drives (R106). -/
def encnumResult (tie : TieRule) (numIn : Rat) (wIn : BitVec 3) : Outputs :=
  if legalWidth wIn then encnumDriven (rawOf tie numIn) wIn.toNat
  else { Outputs.undriven with err := .badOperand }

/-- ENCNUM (R106). -/
def execEncnum (numIn : Rat) (wIn : BitVec 3) (s : State) : Answer :=
  .next (drive (encnumResult s.params.tieRule numIn wIn) s)

/-- What DECNUM drives (R108). -/
def decnumResult (frameIn : Frame) (offIn : BitVec 5) (wIn : BitVec 3) : Outputs :=
  if legalWidth wIn && fieldFits offIn wIn then
    let raw := leValue (fieldBytes frameIn offIn.toNat wIn.toNat)
    { Outputs.undriven with raw := raw, scaled := scaledOf raw }
  else { Outputs.undriven with err := .badOperand }

/-- DECNUM (R108). -/
def execDecnum (frameIn : Frame) (offIn : BitVec 5) (wIn : BitVec 3) (s : State) : Answer :=
  .next (drive (decnumResult frameIn offIn wIn) s)

/-- SEND (R110): `BUSY` while a frame is being transmitted; the frame is not checked. -/
def execSend (frameIn : Frame) (s : State) : Answer :=
  if s.regs.txBusy then raiseErr .busy s
  else
    .next (driveNothing
      { s with regs := { s.regs with txBuf := frameIn, txIdx := 0, txBusy := true } })

/-- The transmit registers after one byte (R111). -/
def advanceTx (r : Regs) : Regs :=
  { r with txIdx := r.txIdx + 1, txBusy := if r.txIdx + 1 = 26 then false else r.txBusy }

/-- TX_BYTE (R111): enabled when TX_BUSY = 1; without tx_valid no byte moves (R79; log 10). -/
def execTxByte (s : State) : Answer :=
  if s.regs.txBusy then
    match txData s.regs with
    | some b => .next (txPush b { s with regs := advanceTx s.regs })
    | none => .fault (.frameOffset s.regs.txIdx)
  else .next s

/-- `op_sel = 0xB` (R81). -/
def execReservedOpB (s : State) : Answer := raiseErr .illegalOp s
/-- `op_sel = 0xC` (R81). -/
def execReservedOpC (s : State) : Answer := raiseErr .illegalOp s
/-- `op_sel = 0xD` (R81). -/
def execReservedOpD (s : State) : Answer := raiseErr .illegalOp s
/-- `op_sel = 0xE` (R81). -/
def execReservedOpE (s : State) : Answer := raiseErr .illegalOp s
/-- `op_sel = 0xF` (R81). -/
def execReservedOpF (s : State) : Answer := raiseErr .illegalOp s

end Sys2Proof.Machine
end

