-- ==== Sys2Proof/Machine/Scanner.lean ====
section
/-! DEFINITION. The resynchronizing scanner (spec/42_scanner.md): its step semantics R171 to R177, and
the scan as a function, R178. -/

namespace Sys2Proof.Machine

/-- The scanner registers after SCAN_START (R171). -/
def startScan (mIn : BitVec 16) (r : Regs) : Regs :=
  { r with
    scWin := zeroFrame
    scFill := 0
    scExtra := 0
    scMax := mIn
    scCount := 0
    scFrame := zeroFrame
    scSync := false
    scTmo := false
    scPhase := .fill }

/-- SCAN_START (R171): `BUSY` while a scan is running. -/
def execScanStart (mIn : BitVec 16) (s : State) : Answer :=
  if scanBusy s.regs then raiseErr .busy s
  else .next (driveNothing { s with regs := startScan mIn s.regs })

/-- `finish_sync()` (R174). -/
def finishSync (r : Regs) : Regs :=
  { r with scFrame := r.scWin, scSync := true, scPhase := .done }

/-- `finish_fail()` (R175). The window stays (log 17). -/
def finishFail (r : Regs) : Regs :=
  { r with scFrame := zeroFrame, scSync := false, scPhase := .done }

/-- After a byte of the initial read (R172). -/
def afterFill (r : Regs) : Regs :=
  if r.scFill = 26 then
    if r.scWin[0] = marker then finishSync r
    else if r.scMax = 0 then finishFail r
    else { r with scPhase := .hunt }
  else r

/-- RX_BYTE in phase FILL (R172). -/
def fillByte (b : Byte) (r : Regs) : Regs :=
  afterFill
    { r with scWin := shiftIn r.scWin b, scFill := r.scFill + 1, scCount := r.scCount + 1 }

/-- After an extra byte: the marker test comes before the bound test (R173). -/
def afterHunt (r : Regs) : Regs :=
  if r.scWin[0] = marker then finishSync r
  else if r.scExtra = r.scMax.toNat then finishFail r
  else r

/-- RX_BYTE in phase HUNT (R173). -/
def huntByte (b : Byte) (r : Regs) : Regs :=
  afterHunt
    { r with scWin := shiftIn r.scWin b, scExtra := r.scExtra + 1, scCount := r.scCount + 1 }

/-- RX_BYTE_FILL: the handshake with SC_PHASE = FILL. In another phase, or with a byte that is not
the channel's oldest, no byte moves (R79, R177; log 10). -/
def execRxByteFill (b : Byte) (s : State) : Answer :=
  if s.regs.scPhase = .fill then
    match rxPull b s with
    | some s' => .next { s' with regs := fillByte b s.regs }
    | none => .next s
  else .next s

/-- RX_BYTE_HUNT: the handshake with SC_PHASE = HUNT; otherwise no byte moves (R79, R177; log 10). -/
def execRxByteHunt (b : Byte) (s : State) : Answer :=
  if s.regs.scPhase = .hunt then
    match rxPull b s with
    | some s' => .next { s' with regs := huntByte b s.regs }
    | none => .next s
  else .next s

/-- RX_TIMEOUT (R176): ends a busy scan; ignored in IDLE and DONE. -/
def execRxTimeout (s : State) : Answer :=
  if scanBusy s.regs then
    .next { s with
      regs := { s.regs with scFrame := zeroFrame, scSync := false, scTmo := true, scPhase := .done } }
  else .next s

/-- The receive handshake with rx_valid (R177): the oldest byte of the channel moves if the scanner
is busy; otherwise it stays for the next scan (R34). -/
def rxHandshake (s : State) : Answer :=
  match s.rxChannel with
  | [] => .next s
  | oldest :: _ =>
    match s.regs.scPhase with
    | .fill => execRxByteFill oldest s
    | .hunt => execRxByteHunt oldest s
    | .idle => .next s
    | .done => .next s

/-! ## The scan as a function (R178) -/

/-- The outcome of a scan (R178). -/
inductive ScanOutcome where
  | sync
  | fail
  | timeout
  | stillBusy
  deriving DecidableEq, Repr

/-- What `scan` returns: the outcome, the frame, and how many bytes were consumed. -/
structure ScanResult where
  outcome : ScanOutcome
  frame : List Byte
  consumed : Nat
  deriving DecidableEq, Repr

/-- The loop of R178 from position `p`, with `left` positions after it, on the bytes `rest` from
position `p` on. A scan that is still busy has consumed every byte so far (R177). -/
def scanFrom (timeoutArrives : Bool) (left p : Nat) (rest : List Byte) : ScanResult :=
  if rest.length < 26 then
    ⟨if timeoutArrives then .timeout else .stillBusy, zeroFrame.toList, p + rest.length⟩
  else if rest.head? = some marker then ⟨.sync, rest.take 26, 26 + p⟩
  else
    match left with
    | 0 => ⟨.fail, zeroFrame.toList, 26 + p⟩
    | left + 1 => scanFrom timeoutArrives left (p + 1) (rest.drop 1)
termination_by structural left

/-- `scan(s, m)` (R178), for the finite list `s` of the bytes delivered. -/
def scan (bytes : List Byte) (m : Nat) (timeoutArrives : Bool) : ScanResult :=
  scanFrom timeoutArrives m 0 bytes

end Sys2Proof.Machine
end

