-- ==== Sys2Proof/Machine/Validators.lean ====
section
/-! DEFINITION. The response validators (spec/43_validators.md R200 to R212). -/

namespace Sys2Proof.Machine

/-- What ACK_MATCH drives (R200, R201). The checksum and offsets 4..24 play no part. -/
def ackMatchResult (addr : Byte) (frameIn : Frame) : Outputs :=
  { Outputs.undriven with
    matched := ackMatched addr frameIn
    ack := ackOf addr frameIn
    ok := decide (ackOf addr frameIn = ackOk)
    err := ackClass addr frameIn }

/-- ACK_MATCH (R200). -/
def execAckMatch (frameIn : Frame) (s : State) : Answer :=
  .next (drive (ackMatchResult s.regs.addr frameIn) s)

/-- What STATUS_DECODE drives (R202, R203); the snapshot is driven whether valid or not. -/
def statusDecodeResult (addr : Byte) (layout : StatusLayout) (frameIn : Frame) : Outputs :=
  { Outputs.undriven with
    ok := statusValid addr frameIn
    snap := decodeStatus layout frameIn
    err := statusClass addr frameIn }

/-- STATUS_DECODE (R202). A layout that R212 does not admit is refused (log 14). -/
def execStatusDecode (frameIn : Frame) (s : State) : Answer :=
  if layoutAdmitted s.params.layout then
    .next (drive (statusDecodeResult s.regs.addr s.params.layout frameIn) s)
  else .refused .layoutNotAdmitted

end Sys2Proof.Machine
end

