-- ==== Sys2Proof/Machine/WireCommands.lean ====
section
/-! DEFINITION. The wire opcodes (spec/41_wire_commands.md). A host-to-device opcode is its expansion
into block operations (R85, R120; log 6): BUILD, or ENCNUM and then BUILD, each a transaction with a
result of its own. What the device does is outside the block (spec/91_not_in_source.md N11). -/

namespace Sys2Proof.Machine

/-- `BUILD [opcode] ++ payload` (R120). -/
def buildCommand (code : Byte) (payload : List Byte) (s : State) : State :=
  drive (buildResult s.regs.addr (bodyOf (code :: payload)) (payload.length + 1)) s

/-- A command with a raw payload of at most 22 bytes (R137; log 15). -/
def rawCommand (code : Byte) (payload : List Byte) (s : State) : Answer :=
  if payload.length ≤ 22 then .next (buildCommand code payload s)
  else .refused (.notExpressible (.countOverLanes payload.length))

/-- `e = ENCNUM v, w; BUILD [opcode] ++ e.bytes` (R132), both done even when ENCNUM reports `RANGE`:
the duty not to go on is the host's (spec/60_exceptions.md R256; log 7). -/
def numericCommand (code : Byte) (width : BitVec 3) (v : Rat) (s : State) : Answer :=
  let e := encnumResult s.params.tieRule v width
  .next (buildCommand code e.bytes (drive e s))

/-- RemoteEnable (R130): `BUILD [0x20, en ? 0x01 : 0x00]` (PRESUMED bytes, I11; log 18). -/
def execRemoteEnable (en : Bool) (s : State) : Answer :=
  .next (buildCommand codeRemoteEnable [boolByte en] s)

/-- OutputEnable (R131): `BUILD [0x21, en ? 0x01 : 0x00]` (PRESUMED bytes, I11; log 18). -/
def execOutputEnable (en : Bool) (s : State) : Answer :=
  .next (buildCommand codeOutputEnable [boolByte en] s)

/-- SetLimitV (R132): volts, 4 bytes. -/
def execSetLimitV (v : Rat) (s : State) : Answer := numericCommand codeSetLimitV 4 v s

/-- SetOutputV (R133): volts, 4 bytes. -/
def execSetOutputV (v : Rat) (s : State) : Answer := numericCommand codeSetOutputV 4 v s

/-- SetOutputI (R134): amperes, 2 bytes. -/
def execSetOutputI (a : Rat) (s : State) : Answer := numericCommand codeSetOutputI 2 a s

/-- SetAddress (R135): `BUILD [0x25, new_addr]` (PRESUMED payload, I12; log 19). `ADDR` does not
change. -/
def execSetAddress (newAddr : Byte) (s : State) : Answer :=
  .next (buildCommand codeSetAddress [newAddr] s)

/-- ReadConfig (R136): `BUILD [0x26]`. -/
def execReadConfig (s : State) : Answer := .next (buildCommand codeReadConfig [] s)

/-- CalMode (R137). -/
def execCalMode (p : List Byte) (s : State) : Answer := rawCommand codeCalMode p s
/-- CalState (R138). -/
def execCalState (p : List Byte) (s : State) : Answer := rawCommand codeCalState p s
/-- CalReadV (R139). -/
def execCalReadV (p : List Byte) (s : State) : Answer := rawCommand codeCalReadV p s
/-- CalSendV (R140). -/
def execCalSendV (p : List Byte) (s : State) : Answer := rawCommand codeCalSendV p s
/-- CalReadI (R141). -/
def execCalReadI (p : List Byte) (s : State) : Answer := rawCommand codeCalReadI p s
/-- CalSendI (R142). -/
def execCalSendI (p : List Byte) (s : State) : Answer := rawCommand codeCalSendI p s
/-- CalSaveData (R143). -/
def execCalSaveData (p : List Byte) (s : State) : Answer := rawCommand codeCalSaveData p s
/-- CalSetInfo (R144). -/
def execCalSetInfo (p : List Byte) (s : State) : Answer := rawCommand codeCalSetInfo p s
/-- CalReadInfo (R145). -/
def execCalReadInfo (p : List Byte) (s : State) : Answer := rawCommand codeCalReadInfo p s
/-- ReadID (R146). -/
def execReadID (p : List Byte) (s : State) : Answer := rawCommand codeReadID p s
/-- CalReset (R147). -/
def execCalReset (p : List Byte) (s : State) : Answer := rawCommand codeCalReset p s
/-- EnaLocalKey (R148). -/
def execEnaLocalKey (p : List Byte) (s : State) : Answer := rawCommand codeEnaLocalKey p s

/-- ReturnInfo (R149): an acknowledgement frame `AA addr 12 ack rest` as the block recognises it,
by ACK_MATCH (log 8). -/
def execReturnInfo (addr ack : Byte) (rest : Vector Byte 22) (s : State) : Answer :=
  execAckMatch (ackFrame addr ack rest) s

/-- StartByte (R150): the byte 0xAA offered on the receive port. It joins the receive channel, and
the channel's oldest byte moves if the scanner is busy (R34, R177; log 9). -/
def execStartByte (s : State) : Answer := rxHandshake (deliver [marker] s)

end Sys2Proof.Machine
end

