-- ==== Sys2Proof/Machine/Dispatch.lean ====
section
/-! DEFINITION. Each instruction's meaning, one arm per constructor. -/

namespace Sys2Proof.Machine

def exec (i : Instr) (s : State) : Host.Outcome State Fault Refusal :=
  match i with
  | .nop => Sys2Proof.Machine.execNop s
  | .cfgSetAddr aIn => Sys2Proof.Machine.execCfgSetAddr aIn s
  | .build bodyIn nIn => Sys2Proof.Machine.execBuild bodyIn nIn s
  | .checksum frameIn => Sys2Proof.Machine.execChecksum frameIn s
  | .check frameIn => Sys2Proof.Machine.execCheck frameIn s
  | .encnum numIn wIn => Sys2Proof.Machine.execEncnum numIn wIn s
  | .decnum frameIn offIn wIn => Sys2Proof.Machine.execDecnum frameIn offIn wIn s
  | .send frameIn => Sys2Proof.Machine.execSend frameIn s
  | .scanStart mIn => Sys2Proof.Machine.execScanStart mIn s
  | .ackMatch frameIn => Sys2Proof.Machine.execAckMatch frameIn s
  | .statusDecode frameIn => Sys2Proof.Machine.execStatusDecode frameIn s
  | .reservedOpB => Sys2Proof.Machine.execReservedOpB s
  | .reservedOpC => Sys2Proof.Machine.execReservedOpC s
  | .reservedOpD => Sys2Proof.Machine.execReservedOpD s
  | .reservedOpE => Sys2Proof.Machine.execReservedOpE s
  | .reservedOpF => Sys2Proof.Machine.execReservedOpF s
  | .rxByteFill rxData => Sys2Proof.Machine.execRxByteFill rxData s
  | .rxByteHunt rxData => Sys2Proof.Machine.execRxByteHunt rxData s
  | .rxTimeout => Sys2Proof.Machine.execRxTimeout s
  | .txByte => Sys2Proof.Machine.execTxByte s
  | .remoteEnable en => Sys2Proof.Machine.execRemoteEnable en s
  | .outputEnable en => Sys2Proof.Machine.execOutputEnable en s
  | .setLimitV v => Sys2Proof.Machine.execSetLimitV v s
  | .setOutputV v => Sys2Proof.Machine.execSetOutputV v s
  | .setOutputI a => Sys2Proof.Machine.execSetOutputI a s
  | .setAddress newAddr => Sys2Proof.Machine.execSetAddress newAddr s
  | .readConfig => Sys2Proof.Machine.execReadConfig s
  | .calMode payload => Sys2Proof.Machine.execCalMode payload s
  | .calState payload => Sys2Proof.Machine.execCalState payload s
  | .calReadV payload => Sys2Proof.Machine.execCalReadV payload s
  | .calSendV payload => Sys2Proof.Machine.execCalSendV payload s
  | .calReadI payload => Sys2Proof.Machine.execCalReadI payload s
  | .calSendI payload => Sys2Proof.Machine.execCalSendI payload s
  | .calSaveData payload => Sys2Proof.Machine.execCalSaveData payload s
  | .calSetInfo payload => Sys2Proof.Machine.execCalSetInfo payload s
  | .calReadInfo payload => Sys2Proof.Machine.execCalReadInfo payload s
  | .readID payload => Sys2Proof.Machine.execReadID payload s
  | .calReset payload => Sys2Proof.Machine.execCalReset payload s
  | .enaLocalKey payload => Sys2Proof.Machine.execEnaLocalKey payload s
  | .returnInfo addr ack rest => Sys2Proof.Machine.execReturnInfo addr ack rest s
  | .startByte => Sys2Proof.Machine.execStartByte s

end Sys2Proof.Machine
end

