-- ==== Sys2Proof/Machine/Ports.lean ====
section
/-! DEFINITION. What one input of the environment does to the machine (spec/30_encoding.md R79,
spec/60_exceptions.md R243, R251). -/

namespace Sys2Proof.Machine

/-- Take the next input off the schedule. The result port is driven for one transaction only
(spec/10_state.md R30), so it falls back to its defaults (log 11). -/
def beginStep (rest : List (List PortInput)) (s : State) : State :=
  undrive { s with inputs := rest }

/-- A handshake on a port: the event it is, if the block's side of the handshake is there. -/
def runEvent (e : PortEvent) (s : State) : Answer :=
  match decodeEvent s.regs.scPhase s.regs.txBusy e with
  | some i => exec i s
  | none => .next s

/-- A transaction on the operation port; an image the port cannot carry is refused (R82). -/
def runWord (img : List Byte) (s : State) : Answer :=
  match decode img with
  | .ok i => exec i s
  | .error e => .refused (.notExpressible e)

/-- One input. `rx_data` is the oldest byte of the receive channel (R34, R57). -/
def applyInput (input : PortInput) (s : State) : Answer :=
  match input with
  | .word img => runWord img s
  | .rxValid =>
    match s.rxChannel with
    | [] => .next s
    | oldest :: _ => runEvent (.rx oldest) s
  | .timeout => runEvent .timeout s
  | .txReady => runEvent .txReady s
  | .arrive bytes => .next (deliver bytes s)
  | .rst => .next (applyReset s)

/-- What is left of the schedule when the first input of a cycle is taken. -/
def afterFirst (others : List PortInput) (cycles : List (List PortInput)) : List (List PortInput) :=
  match others with
  | [] => cycles
  | _ :: _ => others :: cycles

end Sys2Proof.Machine
end

