-- ==== Sys2Proof/Machine/Step.lean ====
section
/-! DEFINITION. One step: the next input of the schedule. Several inputs of one cycle are applied one
at a time in the order the schedule has them, and every order is some schedule
(spec/60_exceptions.md R243 (c)); `rst` precedes everything in its cycle (R243 (d); log 25). With
no input the block waits (spec/70_reset_and_hazards.md R295; log 3), and no result outlasts its operation
(spec/10_state.md R30; log 11). -/

namespace Sys2Proof.Machine

def step (s : State) : Host.Outcome State Fault Refusal :=
  match s.inputs with
  | [] => .next (undrive s)
  | [] :: cycles => .next (beginStep cycles s)
  | (input :: others) :: cycles =>
    if PortInput.rst ∈ input :: others then applyInput .rst (beginStep cycles s)
    else applyInput input (beginStep (afterFirst others cycles) s)

/-- `s` with a transaction of the opcode table's bits `w` as its next input (log 5). -/
def State.withFetchWord (s : State) (nbits w : Nat) : State :=
  { s with inputs := [.word (wordImage nbits w)] :: s.inputs }

end Sys2Proof.Machine
end

