-- ==== Sys2Proof/Machine/HostProc.lean ====
section
/-! DEFINITION. The host's procedures over the block (spec/60_exceptions.md R252 to R257): command send
with retries, status query, one-shot operations and `close()`. They are "surrounding software"
(spec/00_scope.md R5) and add nothing to the block; they stand here so that claims about whole
exchanges can be stated (log 23). The host takes a turn or the environment acts, in any order; a
"wait until" is a turn in which the host does nothing. -/

namespace Sys2Proof.Machine

/-- The one-shot operations (R254). -/
inductive OneShot where
  | outputEnable (en : Bool)
  | remoteControl (en : Bool)
  | setOutputVoltage (v : Rat)
  | setOutputCurrent (a : Rat)
  | setMaximumVoltage (v : Rat)
  deriving DecidableEq, Repr

/-- What a host can be asked for: a one-shot operation (R254), `host_send` of any BUILD's frame (R252,
"f = out.frame of a BUILD"; the count is within R82's bound by its type), or a status query (R253). -/
inductive HostTask where
  | oneShot (op : OneShot)
  | send (bodyIn : Body) (nIn : Fin 24)
  | queryStatus
  deriving DecidableEq, Repr

/-- What the host reports of a task. `attempt` is the index of the last attempt (R257); a failure
also carries the last attempt's `out.err` and `SC_TMO` (R255). -/
inductive HostReport where
  | success (attempt : Nat)
  | transmitFailure (attempt : Nat) (lastErr : ErrCode) (lastTmo : Bool)
  | status (attempt : Nat) (snap : Snapshot)
  | queryFailure (attempt : Nat) (lastErr : ErrCode) (lastTmo : Bool)
  /-- `RANGE`, reported at once (R256) -/
  | callerError
  deriving DecidableEq, Repr

/-- The report of bound exhaustion (R252, R253, R255). -/
def HostTask.failure (task : HostTask) (attempt : Nat) (lastErr : ErrCode) (lastTmo : Bool) :
    HostReport :=
  match task with
  | .oneShot _ => .transmitFailure attempt lastErr lastTmo
  | .send _ _ => .transmitFailure attempt lastErr lastTmo
  | .queryStatus => .queryFailure attempt lastErr lastTmo

/-- Where the host stands in R252's or R253's loop. -/
inductive HostPc where
  | ready
  | waitTx (task : HostTask) (frame : Frame) (attempt : Nat)
  | startScan (task : HostTask) (frame : Frame) (attempt : Nat)
  | waitScan (task : HostTask) (frame : Frame) (attempt : Nat)
  deriving DecidableEq, Repr

/-- The task under way, if there is one. -/
def HostPc.underWay : HostPc → List HostTask
  | .ready => []
  | .waitTx task _ _ => [task]
  | .startScan task _ _ => [task]
  | .waitScan task _ _ => [task]

/-- The host's parameters (spec/00_scope.md R7): `MAX_ATTEMPTS` and `MAX_EXTRA`. -/
structure HostParams where
  maxAttempts : Nat
  maxExtra : BitVec 16
  deriving DecidableEq, Repr

/-- `MAX_ATTEMPTS`, "10 by default" (R7, decision D33). -/
def defaultMaxAttempts : Nat := 10

/-- A host with the default attempt bound. `MAX_EXTRA` is open: it "has no value in source" (R7), so
it stays an argument. -/
def defaultHostParams (maxExtra : BitVec 16) : HostParams where
  maxAttempts := defaultMaxAttempts
  maxExtra := maxExtra

/-- A host with its block. -/
structure HostState where
  block : State
  pc : HostPc
  todo : List HostTask
  reports : List HostReport
  deriving DecidableEq, Repr

/-- Go on with the block after an operation; a host whose operation stops the model stays where it
is. -/
def HostState.afterOp (h : HostState) (a : Answer) (k : State → HostState) : HostState :=
  match a with
  | .next t => k t
  | .fault _ => h
  | .refused _ => h

/-- A frame is built: the first attempt (R252), or none at all when `MAX_ATTEMPTS` is 0. There is then
no last attempt whose `out.err` and `SC_TMO` R255 could report; the failure reported at once with
attempt 0, `NONE` and false is the model's (DESIGN CHOICE, log 29). -/
def HostState.firstAttempt (p : HostParams) (h : HostState) (task : HostTask) (t : State) : HostState :=
  if p.maxAttempts = 0 then
    { h with block := t, reports := h.reports ++ [task.failure 0 .none false] }
  else { h with block := t, pc := .waitTx task t.out.frame 1 }

/-- Build a numeric command's frame: ENCNUM, and BUILD only if it reports no `RANGE` (R256). -/
def HostState.numericTask (p : HostParams) (h : HostState) (task : HostTask) (code : Byte)
    (width : BitVec 3) (v : Rat) : HostState :=
  h.afterOp (exec (.encnum v width) h.block) fun e =>
    if e.out.err = .none then
      h.afterOp (exec (.build (bodyOf (code :: e.out.bytes)) (e.out.bytes.length + 1)) e)
        (h.firstAttempt p task)
    else { h with block := e, reports := h.reports ++ [.callerError] }

/-- Begin a task: build its frame (R252 to R254). -/
def HostState.beginTask (p : HostParams) (h : HostState) (task : HostTask) : HostState :=
  match task with
  | .oneShot (.outputEnable en) => h.afterOp (exec (.outputEnable en) h.block) (h.firstAttempt p task)
  | .oneShot (.remoteControl en) => h.afterOp (exec (.remoteEnable en) h.block) (h.firstAttempt p task)
  | .oneShot (.setOutputVoltage v) => h.numericTask p task codeSetOutputV 4 v
  | .oneShot (.setOutputCurrent a) => h.numericTask p task codeSetOutputI 2 a
  | .oneShot (.setMaximumVoltage v) => h.numericTask p task codeSetLimitV 4 v
  | .send bodyIn nIn => h.afterOp (exec (.build bodyIn nIn.val) h.block) (h.firstAttempt p task)
  | .queryStatus => h.afterOp (exec .readConfig h.block) (h.firstAttempt p task)

/-- The attempt has failed: the identical frame again, or the report of bound exhaustion (R252,
R253, R255). -/
def HostState.retry (p : HostParams) (h : HostState) (task : HostTask) (frame : Frame)
    (attempt : Nat) (t : State) : HostState :=
  if attempt < p.maxAttempts then { h with block := t, pc := .waitTx task frame (attempt + 1) }
  else
    { h with
      block := t, pc := .ready,
      reports := h.reports ++ [task.failure attempt t.out.err t.regs.scTmo] }

/-- What judges the scan's frame: ACK_MATCH for a command (R252), STATUS_DECODE for a query (R253). -/
def HostTask.judgeOp (task : HostTask) (response : Frame) : Instr :=
  match task with
  | .oneShot _ => .ackMatch response
  | .send _ _ => .ackMatch response
  | .queryStatus => .statusDecode response

/-- The report of a judgement with `ok` (R252, R253). -/
def HostTask.done (task : HostTask) (attempt : Nat) (snap : Snapshot) : HostReport :=
  match task with
  | .oneShot _ => .success attempt
  | .send _ _ => .success attempt
  | .queryStatus => .status attempt snap

/-- Judge the scan's frame: stop at the first `ok`, else the attempt has failed (R252, R253). -/
def HostState.judge (p : HostParams) (h : HostState) (task : HostTask) (frame : Frame)
    (attempt : Nat) : HostState :=
  h.afterOp (exec (task.judgeOp h.block.regs.scFrame) h.block) fun t =>
    if t.out.ok then
      { h with block := t, pc := .ready, reports := h.reports ++ [task.done attempt t.out.snap] }
    else h.retry p task frame attempt t

/-- One turn of the host (R252, R253). -/
def hostTurn (p : HostParams) (h : HostState) : HostState :=
  match h.pc with
  | .ready =>
    match h.todo with
    | [] => h
    | task :: rest => { h with todo := rest }.beginTask p task
  | .waitTx task frame attempt =>
    if h.block.regs.txBusy then h
    else
      h.afterOp (exec (.send frame) h.block) fun t =>
        { h with block := t, pc := .startScan task frame attempt }
  | .startScan task frame attempt =>
    h.afterOp (exec (.scanStart p.maxExtra) h.block) fun t =>
      { h with block := t, pc := .waitScan task frame attempt }
  | .waitScan task frame attempt =>
    if scanDone h.block.regs then h.judge p task frame attempt else h

/-- What the transport may do between the host's turns (R251); a single owner issues every
operation (R258 (a)) and nobody asserts `rst`. -/
inductive EnvEvent where
  | rxValid
  | timeout
  | txReady
  | arrive (bytes : List Byte)
  deriving DecidableEq, Repr

/-- The event as an input of the block. -/
def EnvEvent.input : EnvEvent → PortInput
  | .rxValid => .rxValid
  | .timeout => .timeout
  | .txReady => .txReady
  | .arrive bytes => .arrive bytes

/-- Whose turn it is. -/
inductive Turn where
  | host
  | env (e : EnvEvent)
  deriving DecidableEq, Repr

/-- A turn begins: the last operation's results are no longer on the port (spec/10_state.md R30;
log 11). The host has used them in that operation's own turn. -/
def HostState.beginTurn (h : HostState) : HostState := { h with block := undrive h.block }

/-- One turn of the environment. -/
def envTurn (e : EnvEvent) (h : HostState) : HostState :=
  h.afterOp (applyInput e.input h.block) fun t => { h with block := t }

/-- One turn. -/
def takeTurn (p : HostParams) (h : HostState) : Turn → HostState
  | .host => hostTurn p h.beginTurn
  | .env e => envTurn e h.beginTurn

/-- A run of turns. -/
def hostRun (p : HostParams) (turns : List Turn) (h : HostState) : HostState :=
  turns.foldl (takeTurn p) h

/-- `close()` (R254): the second operation is attempted even if the first fails. -/
def closeTasks : List HostTask :=
  [.oneShot (.outputEnable false), .oneShot (.remoteControl false)]

/-- The bytes of a frame still to be transmitted. -/
def txPending (r : Regs) : Nat := if r.txBusy then 26 - r.txIdx else 0

/-- How many bytes have been transmitted or are about to be. -/
def txTotal (s : State) : Nat := s.txChannel.length + txPending s.regs

end Sys2Proof.Machine
end

