-- ==== Sys2Proof/Machine/Run.lean ====
section
/-! DEFINITION. The end of a run and its observable outcome (spec/60_exceptions.md R259). -/

namespace Sys2Proof.Machine

/-- "Every line of the script has been issued": no cycle of the schedule still holds an input
(log 28). -/
def scriptIssued (s : State) : Bool := s.inputs.all List.isEmpty

/-- The run has ended: the script is issued, `SC_PHASE ∉ {FILL, HUNT}` and `TX_BUSY = 0` (R259). -/
def runEnded (s : State) : Bool := scriptIssued s && !scanBusy s.regs && !s.regs.txBusy

/-- The observable outcome of a run (R259). -/
structure RunOutcome where
  /-- the sequence of operation results, oldest first -/
  results : List Outputs
  addr : Byte
  scFrame : Frame
  scSync : Bool
  scTmo : Bool
  scCount : Nat
  /-- the bytes pushed to the transmit channel, oldest first -/
  transmitted : List Byte
  /-- the bytes left unread in the receive channel, oldest first -/
  unread : List Byte
  deriving DecidableEq, Repr

/-- What R259 lets one observe of a state in which a run ends. -/
def observed (s : State) : RunOutcome where
  results := s.results
  addr := s.regs.addr
  scFrame := s.regs.scFrame
  scSync := s.regs.scSync
  scTmo := s.regs.scTmo
  scCount := s.regs.scCount
  transmitted := s.txChannel
  unread := s.rxChannel

/-- The outcome of the run that ends in `s`, if one does. -/
def runOutcome (s : State) : Option RunOutcome := if runEnded s then some (observed s) else none

end Sys2Proof.Machine
end

