-- ==== Sys2Proof/Safety.lean ====
section
/-! DEFINITION. What counts as a safe state and an honest frame, in the terms the statements use. -/

namespace Sys2Proof.Machine

/-- The five invariants of spec/10_state.md R27, in the rule's order. -/
structure ScannerLaws (r : Regs) : Prop where
  syncFrame : r.scPhase = .done → r.scSync = true → r.scFrame[0] = 0xAA ∧ r.scTmo = false
  noSyncFrame : r.scSync = false → r.scFrame = zeroFrame
  fillCounts : r.scPhase = .fill → r.scExtra = 0 ∧ r.scCount = r.scFill ∧ r.scFill < 26
  huntCounts : r.scPhase = .hunt →
    r.scFill = 26 ∧ r.scExtra < r.scMax.toNat ∧ r.scCount = 26 + r.scExtra ∧ r.scWin[0] ≠ 0xAA
  doneCount : r.scPhase = .done → r.scTmo = false → r.scCount = 26 + r.scExtra

/-- What every step keeps of the registers: R27, the ranges of R20, the cleared results of a busy or
idle scanner (R26), and the transmitter (R28). -/
structure RegsInv (r : Regs) : Prop where
  laws : ScannerLaws r
  fillRange : r.scFill ≤ 26
  extraRange : r.scExtra ≤ r.scMax.toNat
  countSplit : r.scCount = r.scFill + r.scExtra
  notDoneClear : r.scPhase ≠ .done → r.scFrame = zeroFrame ∧ r.scSync = false ∧ r.scTmo = false
  txRange : r.txIdx ≤ 26
  txBusyIff : r.txBusy = true ↔ r.txIdx < 26

/-- The invariant of the whole state. -/
def StateInv (s : State) : Prop := RegsInv s.regs

/-- `t` is `s` after an operation that leaves the registers at `r`: the result port is driven and its
result recorded; parameters, channels and schedule are as before. With `r = s.regs` the operation
changes no register. -/
structure Operates (s : State) (r : Regs) (t : State) : Prop where
  regs : t.regs = r
  params : t.params = s.params
  rxChannel : t.rxChannel = s.rxChannel
  txChannel : t.txChannel = s.txChannel
  inputs : t.inputs = s.inputs
  results : t.results = s.results ++ [t.out]

/-- `t` is `s` after an event of the receive port: parameters, result port, results, transmit
channel and schedule are as before. -/
structure ReceivesOnly (s t : State) : Prop where
  params : t.params = s.params
  out : t.out = s.out
  results : t.results = s.results
  txChannel : t.txChannel = s.txChannel
  inputs : t.inputs = s.inputs

/-- The registers an RX_BYTE does not write (R20's table): `ADDR`, `SC_MAX`, `SC_TMO`, and the
transmitter. -/
structure KeepsNonScan (r r' : Regs) : Prop where
  addr : r'.addr = r.addr
  scMax : r'.scMax = r.scMax
  scTmo : r'.scTmo = r.scTmo
  txBuf : r'.txBuf = r.txBuf
  txIdx : r'.txIdx = r.txIdx
  txBusy : r'.txBusy = r.txBusy

/-- `s` can run any instruction without a stop: the layout is admitted (spec/43_validators.md R212)
and a frame being transmitted has a next byte (R28). -/
structure Ready (s : State) : Prop where
  layout : layoutAdmitted s.params.layout = true
  tx : s.regs.txBusy = true → s.regs.txIdx < 26

/-- `n` is `round_T(x)` (spec/00_scope.md R14): an integer nearest to `x`; where `x` is exactly halfway
between two integers, the even one or the one of larger magnitude. -/
def IsRound (tie : TieRule) (x : Rat) (n : Int) : Prop :=
  |(n : Rat) - x| ≤ 1 / 2 ∧
    (|(n : Rat) - x| = 1 / 2 →
      match tie with
      | .halfEven => Even n
      | .halfAway => |x| < |(n : Rat)|)

/-- `sum_{i=0}^{24} f[i]` (R13). -/
def frameSum (f : Frame) : Nat := ∑ i : Fin 25, (f[i.val]).toNat

/-- `f` is the frame of a command (spec/41_wire_commands.md R120; spec/40_codec.md R103): marker,
address, opcode, payload from offset 3, zeros, checksum. -/
structure CommandFrame (addr code : Byte) (payload : List Byte) (f : Frame) : Prop where
  marker : f[0] = 0xAA
  addr : f[1] = addr
  code : f[2] = code
  payload : ∀ i (h : i < 22), f[3 + i] = payload.getD i 0
  checksum : (f[25]).toNat = frameSum f % 256

/-- CHECK of `f` gives the verdict `ok`, in every state. -/
def ChecksAs (f : Frame) (ok : Bool) : Prop :=
  ∀ s : State, ∃ t, exec (.check f) s = .next t ∧ t.out.ok = ok

/-- The codes that the instructions `ops` can drive are `codes`, no other and each of them
(spec/60_exceptions.md R242). -/
def DrivesExactly (ops : Instr → Prop) (codes : List (BitVec 4)) : Prop :=
  (∀ (i : Instr) (s t : State), ops i → exec i s = .next t → t.out.err.code ∈ codes) ∧
    ∀ c ∈ codes, ∃ (i : Instr) (s t : State), ops i ∧ exec i s = .next t ∧ t.out.err.code = c

/-- The selectors of the transaction image: the 16 values of `op_sel` (spec/30_encoding.md R80, R81)
and the 21 wire codes (R75). -/
def listedSelectors : List Byte :=
  [0x00, 0x01, 0x02, 0x03, 0x04, 0x05, 0x06, 0x07, 0x08, 0x09, 0x0A, 0x0B, 0x0C, 0x0D, 0x0E, 0x0F] ++
  [0x20, 0x21, 0x22, 0x23, 0x24, 0x25, 0x26, 0x27, 0x28, 0x29, 0x2A, 0x2B, 0x2C, 0x2D, 0x2E, 0x2F] ++
  [0x31, 0x32, 0x37, 0x12, 0xAA]

/-- The wire commands with a raw payload and their codes (R75; R137 to R148). -/
def payloadCommands : List ((List Byte → Instr) × Byte) :=
  [(.calMode, 0x27), (.calState, 0x28), (.calReadV, 0x29), (.calSendV, 0x2A), (.calReadI, 0x2B),
    (.calSendI, 0x2C)] ++
  [(.calSaveData, 0x2D), (.calSetInfo, 0x2E), (.calReadInfo, 0x2F), (.readID, 0x31),
    (.calReset, 0x32), (.enaLocalKey, 0x37)]

/-- Whether an instruction is a transaction with a result, and not an event of the receive or
transmit port (spec/60_exceptions.md R242). -/
def drivesResult : Instr → Bool
  | .rxByteFill _ | .rxByteHunt _ | .rxTimeout | .txByte | .startByte => false
  | .nop | .cfgSetAddr _ | .build _ _ | .checksum _ | .check _ | .encnum _ _ | .decnum _ _ _
  | .send _ | .scanStart _ | .ackMatch _ | .statusDecode _ | .reservedOpB | .reservedOpC
  | .reservedOpD | .reservedOpE | .reservedOpF | .remoteEnable _ | .outputEnable _ | .setLimitV _
  | .setOutputV _ | .setOutputI _ | .setAddress _ | .readConfig | .calMode _ | .calState _
  | .calReadV _ | .calSendV _ | .calReadI _ | .calSendI _ | .calSaveData _ | .calSetInfo _
  | .calReadInfo _ | .readID _ | .calReset _ | .enaLocalKey _ | .returnInfo _ _ _ => true

/-- Every transaction still in the schedule is one the port can carry. -/
def ScheduleDecodes (s : State) : Prop :=
  ∀ cycle ∈ s.inputs, ∀ img, PortInput.word img ∈ cycle → ∃ i, decode img = .ok i

/-- A host about to work through `todo`. -/
def hostOf (s : State) (todo : List HostTask) : HostState :=
  { block := s, pc := .ready, todo := todo, reports := [] }

end Sys2Proof.Machine
end

