-- ==== Sys2Proof/Certificates/Slice0/Obligations.lean ====
section
/-! DEFINITION. The statements for the provers. "log n" is notes/assumptions/n.md. -/

open Sys2Proof Sys2Proof.Machine

/-! ## Encoding -/

/-- For every well-formed instruction, at every value of every operand, decoding what the ports show
for it gives it back (the image's layout is the model's choice, log 4). -/
def Obligations.EncodeThenDecodeIsIdentity : Prop :=
  ∀ (i : Instr) (phase : ScPhase) (txBusy : Bool),
    i.wellFormed = true → i.portOpen phase txBusy = true →
      decodeSample phase txBusy (encode i) = .ok i

/-- Whatever decodes is well formed, and its handshake is possible (R82, R79; log 4). -/
def Obligations.DecodedInstructionsAreWellFormed : Prop :=
  ∀ (phase : ScPhase) (txBusy : Bool) (sample : Sample) (i : Instr),
    decodeSample phase txBusy sample = .ok i →
      i.wellFormed = true ∧ i.portOpen phase txBusy = true

/-- Some words of the opcode table, one or more a family, written out from R75, R80, R81 and the
table's match column. That 0x30, which no row has, decodes to nothing is the model's choice (log 4):
to the block no wire code is illegal (R76). So is the ReturnInfo of the bare word 0x12: the zeros of its
frame lane at offsets 0 and 2 are ignored (log 30). -/
def Obligations.TableWordsSelectTheirInstructions : Prop :=
  decodeTableWord 8 0x0 = some .nop ∧
  decodeTableWord 8 0x1 = some (.cfgSetAddr 0) ∧
  decodeTableWord 8 0x2 = some (.build (Vector.replicate 23 0) 0) ∧
  decodeTableWord 8 0x8 = some (.scanStart 0) ∧
  decodeTableWord 8 0xA = some (.statusDecode zeroFrame) ∧
  decodeTableWord 8 0xB = some .reservedOpB ∧
  decodeTableWord 8 0x20 = some (.remoteEnable false) ∧
  decodeTableWord 8 0x24 = some (.setOutputI 0) ∧
  decodeTableWord 8 0x2A = some (.calSendV []) ∧
  decodeTableWord 8 0x37 = some (.enaLocalKey []) ∧
  decodeTableWord 8 0x12 = some (.returnInfo 0 0 (Vector.replicate 22 0)) ∧
  decodeTableWord 8 0xAA = some .startByte ∧
  decodeTableWord 8 0x30 = none ∧
  decodeEvent .fill false (.rx 0x5C) = some (.rxByteFill 0x5C) ∧
  decodeEvent .hunt false (.rx 0x5C) = some (.rxByteHunt 0x5C) ∧
  decodeEvent .idle false .timeout = some .rxTimeout ∧
  decodeEvent .idle true .txReady = some .txByte

/-- A transaction whose selector is no `op_sel` value and no wire code is refused by name, whatever
its other lanes (R75, R80; log 4). -/
def Obligations.UnlistedSelectorIsRefused : Prop :=
  ∀ (l : Lanes) (s : State) (others : List PortInput) (cycles : List (List PortInput)),
    l.sel ∉ listedSelectors →
    s.inputs = (.word (laneBytes l) :: others) :: cycles → .rst ∉ others →
      step s = .refused (.notExpressible (.unlistedSelector l.sel))

/-- More body bytes than lanes are refused at the interface (R82 for BUILD, log 15 for payloads). -/
def Obligations.CountOverLanesIsRefused : Prop :=
  ∀ (l : Lanes) (s : State) (others : List PortInput) (cycles : List (List PortInput)),
    s.inputs = (.word (laneBytes l) :: others) :: cycles → .rst ∉ others →
    ((l.sel = 0x02 ∧ 23 < l.n.toNat) ∨
      ((∃ c ∈ payloadCommands, c.2 = l.sel) ∧ 22 < l.n.toNat)) →
      step s = .refused (.notExpressible (.countOverLanes l.n.toNat))

/-! ## The step, its inputs, and reset -/

/-- A transaction that decodes to `i` makes the step the meaning of `i`, in the state with that
input taken and the result port at its defaults (log 3, log 11); one that does not decode is
refused by name. -/
def Obligations.StepRunsDecodedInstruction : Prop :=
  ∀ (s : State) (img : List Byte) (others : List PortInput) (cycles : List (List PortInput)),
    s.inputs = (.word img :: others) :: cycles → .rst ∉ others →
      (∀ i, decode img = .ok i → i.wellFormed = true ∧
        step s = exec i
          { s with out := .undriven, inputs := if others = [] then cycles else others :: cycles }) ∧
      (∀ e, decode img = .error e → step s = .refused (.notExpressible e))

/-- The port handshakes as the step takes them: rx_valid with the channel's oldest byte in FILL and
HUNT, and no byte moved in IDLE or DONE or from an empty channel (R177); rx_timeout (R176);
tx_ready with tx_valid = TX_BUSY (R111). -/
def Obligations.StepTakesPortHandshakes : Prop :=
  ∀ (s u : State) (e : PortInput) (others : List PortInput) (cycles : List (List PortInput)),
    s.inputs = (e :: others) :: cycles → .rst ∉ others →
    u = { s with out := .undriven, inputs := if others = [] then cycles else others :: cycles } →
      (∀ b rest, e = .rxValid → s.rxChannel = b :: rest →
        step s = (match s.regs.scPhase with
          | .fill => exec (.rxByteFill b) u
          | .hunt => exec (.rxByteHunt b) u
          | .idle => .next u
          | .done => .next u)) ∧
      (e = .rxValid → s.rxChannel = [] → step s = .next u) ∧
      (e = .timeout → step s = exec .rxTimeout u) ∧
      (e = .txReady → step s = if s.regs.txBusy then exec .txByte u else .next u) ∧
      (∀ bytes, e = .arrive bytes → step s = .next { u with rxChannel := s.rxChannel ++ bytes })

/-- With nothing asked of it the block waits (R295; log 3): no input, or a cycle without any. Only the
result port falls back to its defaults (R30; log 11). A run
has ended exactly when R259's three conditions hold (log 28), and an ended run keeps its observable
outcome. -/
def Obligations.StepWithoutInputWaits : Prop :=
  ∀ s : State,
    (s.inputs = [] → step s = .next { s with out := .undriven }) ∧
    (∀ cycles, s.inputs = [] :: cycles →
      step s = .next { s with inputs := cycles, out := .undriven }) ∧
    ((∃ o, runOutcome s = some o) ↔
      (∀ cycle ∈ s.inputs, cycle = []) ∧ s.regs.scPhase ≠ .fill ∧ s.regs.scPhase ≠ .hunt ∧
        s.regs.txBusy = false) ∧
    (∀ o, runOutcome s = some o →
      o = ⟨s.results, s.regs.addr, s.regs.scFrame, s.regs.scSync, s.regs.scTmo, s.regs.scCount,
        s.txChannel, s.rxChannel⟩ ∧
      ∃ t, step s = .next t ∧ runOutcome t = some o)

/-- The bits of an opcode-table row, offered as the next transaction, run as the very next step
(log 5). -/
def Obligations.FetchedWordRunsNext : Prop :=
  ∀ (s : State) (nbits w : Nat) (i : Instr), decodeTableWord nbits w = some i →
    step (s.withFetchWord nbits w) = exec i { s with out := .undriven }

/-- `rst` sets every register to its reset value and leaves both channels and the constants as they
are (R280), whatever stands beside it in the step (R243 (d)). That bytes arriving in the same step
are dropped (log 25) and that the parameters stay (log 21) are the model's deductions. -/
def Obligations.ResetFromAnyState : Prop :=
  ∀ (s : State) (cycle : List PortInput) (cycles : List (List PortInput)),
    s.inputs = cycle :: cycles → .rst ∈ cycle →
      ∃ t, step s = .next t ∧
        t.regs.addr = 0 ∧ t.regs.scPhase = .idle ∧ t.regs.scWin = zeroFrame ∧ t.regs.scFill = 0 ∧
        t.regs.scExtra = 0 ∧ t.regs.scMax = 0 ∧ t.regs.scCount = 0 ∧ t.regs.scFrame = zeroFrame ∧
        t.regs.scSync = false ∧ t.regs.scTmo = false ∧ t.regs.txBuf = zeroFrame ∧
        t.regs.txIdx = 26 ∧ t.regs.txBusy = false ∧
        t.rxChannel = s.rxChannel ∧ t.txChannel = s.txChannel ∧ t.params = s.params ∧
        marker = 0xAA ∧ returnInfoCode = 0x12 ∧ ackOk = 0x80 ∧ ackSentinel = 0xFF

/-- The model's choice for what R243 (d) leaves to it: `rst` takes the place of everything else in its
step, which is dropped from the schedule, and the record of results stays (log 21, log 25). -/
def Obligations.ResetDropsTheRestOfItsStep : Prop :=
  ∀ (s : State) (cycle : List PortInput) (cycles : List (List PortInput)),
    s.inputs = cycle :: cycles → .rst ∈ cycle →
      ∃ t, step s = .next t ∧ t.inputs = cycles ∧ t.results = s.results ∧ t.out = .undriven

/-- The table of R36. -/
def Obligations.ResetValuesOfEveryRegister : Prop :=
  State.reset.regs.addr = 0x00 ∧ State.reset.regs.scPhase = .idle ∧
  State.reset.regs.scWin = zeroFrame ∧ State.reset.regs.scFill = 0 ∧ State.reset.regs.scExtra = 0 ∧
  State.reset.regs.scMax = 0 ∧ State.reset.regs.scCount = 0 ∧ State.reset.regs.scFrame = zeroFrame ∧
  State.reset.regs.scSync = false ∧ State.reset.regs.scTmo = false ∧
  State.reset.regs.txBuf = zeroFrame ∧ State.reset.regs.txIdx = 26 ∧
  State.reset.regs.txBusy = false ∧
  marker = 0xAA ∧ returnInfoCode = 0x12 ∧ ackOk = 0x80 ∧ ackSentinel = 0xFF

/-- `STATUS_FLAGS` bit by bit, and its reset value (R29). -/
def Obligations.StatusFlagsBits : Prop :=
  (∀ r : Regs,
    ((statusFlags r).getLsbD 0 = true ↔ r.scPhase = .fill ∨ r.scPhase = .hunt) ∧
    ((statusFlags r).getLsbD 1 = true ↔ r.scPhase = .done) ∧
    (statusFlags r).getLsbD 2 = r.scSync ∧ (statusFlags r).getLsbD 3 = r.scTmo ∧
    (statusFlags r).getLsbD 4 = r.txBusy ∧ (statusFlags r).toNat / 32 = 0) ∧
  statusFlags State.reset.regs = 0x00

/-! ## The codec -/

/-- NOP (R101). -/
def Obligations.NopDrivesNoError : Prop :=
  decodeTableWord 8 0x0 = some .nop ∧
  ∀ s : State, ∃ t, exec .nop s = .next t ∧ Operates s s.regs t ∧ t.out = .undriven

/-- The reserved operations (R81). -/
def Obligations.ReservedOperationsAreIllegal : Prop :=
  (decodeTableWord 8 0xB = some .reservedOpB ∧ decodeTableWord 8 0xC = some .reservedOpC ∧
    decodeTableWord 8 0xD = some .reservedOpD ∧ decodeTableWord 8 0xE = some .reservedOpE ∧
    decodeTableWord 8 0xF = some .reservedOpF) ∧
  ∀ i ∈ [Instr.reservedOpB, .reservedOpC, .reservedOpD, .reservedOpE, .reservedOpF], ∀ s : State,
    ∃ t, exec i s = .next t ∧ Operates s s.regs t ∧ t.out = { Outputs.undriven with err := .illegalOp }

/-- CFG_SET_ADDR (R102): in every state, busy or not, every byte is legal. -/
def Obligations.CfgSetAddrWritesOnlyAddr : Prop :=
  decodeTableWord 8 0x1 = some (.cfgSetAddr 0) ∧
  ∀ (a : Byte) (s : State), ∃ t, exec (.cfgSetAddr a) s = .next t ∧
    Operates s { s.regs with addr := a } t ∧ t.out = .undriven

/-- BUILD (R103), byte by byte. -/
def Obligations.BuildAssemblesTheFrame : Prop :=
  decodeTableWord 8 0x2 = some (.build (Vector.replicate 23 0) 0) ∧
  ∀ (body : Body) (n : Nat) (s : State), n ≤ 23 →
    ∃ t, exec (.build body n) s = .next t ∧ Operates s s.regs t ∧
      t.out = { Outputs.undriven with frame := t.out.frame } ∧
      t.out.frame[0] = 0xAA ∧ t.out.frame[1] = s.regs.addr ∧
      (∀ i (h : i < 23), t.out.frame[2 + i] = if i < n then body[i] else 0x00) ∧
      (t.out.frame[25]).toNat = frameSum t.out.frame % 256

/-- CHECKSUM (R104); `f[25]` is not read. -/
def Obligations.ChecksumIsTheSumOfTheOtherBytes : Prop :=
  decodeTableWord 8 0x3 = some (.checksum zeroFrame) ∧
  ∀ (f : Frame) (s : State), ∃ t, exec (.checksum f) s = .next t ∧ Operates s s.regs t ∧
    t.out = { Outputs.undriven with byte := t.out.byte } ∧ (t.out.byte).toNat = frameSum f % 256

/-- CHECK (R105). -/
def Obligations.CheckComparesTheChecksum : Prop :=
  decodeTableWord 8 0x4 = some (.check zeroFrame) ∧
  ∀ (f : Frame) (s : State), ∃ t, exec (.check f) s = .next t ∧ Operates s s.regs t ∧
    t.out = { Outputs.undriven with ok := t.out.ok, err := t.out.err } ∧
    (t.out.ok = true ↔ (f[25]).toNat = frameSum f % 256) ∧
    t.out.err = if t.out.ok then .none else .checksumMismatch

/-- The checksum laws (R112): BUILD's frames pass; one changed byte fails; changes that keep the
sum, reorderings among them, pass; the zero frame passes. -/
def Obligations.ChecksumLawsOfR112 : Prop :=
  (∀ (body : Body) (n : Nat) (s : State), n ≤ 23 →
    ∃ t, exec (.build body n) s = .next t ∧ ChecksAs t.out.frame true) ∧
  (∀ (f : Frame) (i : Nat) (h : i < 25) (b : Byte), ChecksAs f true → b ≠ f[i] →
    ChecksAs (f.set i b) false) ∧
  (∀ f g : Frame, ChecksAs f true → g[25] = f[25] → frameSum g % 256 = frameSum f % 256 →
    ChecksAs g true) ∧
  (∀ f g : Frame, ChecksAs f true → g[25] = f[25] → (g.toList.take 25).Perm (f.toList.take 25) →
    ChecksAs g true) ∧
  ChecksAs zeroFrame true

/-- Rounding (R14): the nearest integer, a tie decided by the rule, and no other integer is. -/
def Obligations.RoundingIsToNearestWithTies : Prop :=
  ∀ (tie : TieRule) (x : Rat),
    IsRound tie x (roundTie tie x) ∧ ∀ n, IsRound tie x n → n = roundTie tie x

/-- ENCNUM (R106), for every number, every width and both tie rules. -/
def Obligations.EncnumEncodesOrReports : Prop :=
  decodeTableWord 8 0x5 = some (.encnum 0 0) ∧
  (∀ (v : Rat) (w : BitVec 3) (s : State), 1 ≤ w.toNat → w.toNat ≤ 4 →
    ∃ (t : State) (raw : Int), exec (.encnum v w) s = .next t ∧ Operates s s.regs t ∧
      IsRound s.params.tieRule (v * 1000) raw ∧
      t.out = { Outputs.undriven with
        raw := t.out.raw, bytes := t.out.bytes, ok := t.out.ok, err := t.out.err } ∧
      (t.out.raw : Int) = raw % 256 ^ w.toNat ∧
      t.out.bytes.length = w.toNat ∧
      (∀ i (h : i < t.out.bytes.length), (t.out.bytes[i]).toNat = t.out.raw / 256 ^ i % 256) ∧
      (t.out.ok = true ↔ 0 ≤ raw ∧ raw < 256 ^ w.toNat) ∧
      t.out.err = if t.out.ok then .none else .range) ∧
  (∀ (v : Rat) (w : BitVec 3) (s : State), ¬(1 ≤ w.toNat ∧ w.toNat ≤ 4) →
    ∃ t, exec (.encnum v w) s = .next t ∧ Operates s s.regs t ∧
      t.out = { Outputs.undriven with err := .badOperand })

/-- The precision law (R107). -/
def Obligations.EncnumPrecisionLaw : Prop :=
  ∀ (v : Rat) (w : BitVec 3) (s t : State),
    exec (.encnum v w) s = .next t → t.out.err = .none →
      |(t.out.raw : Rat) - v * 1000| ≤ 1 / 2 ∧ |(t.out.raw : Rat) / 1000 - v| ≤ 1 / 2000 ∧
      (|(t.out.raw : Rat) - v * 1000| = 1 / 2 ∨ |(t.out.raw : Rat) / 1000 - v| = 1 / 2000 →
        ∃ k : Int, v * 1000 = k + 1 / 2)

/-- DECNUM (R108): the little-endian sum and its thousandth, for every byte pattern. -/
def Obligations.DecnumDecodesOrReports : Prop :=
  decodeTableWord 8 0x6 = some (.decnum zeroFrame 0 0) ∧
  (∀ (f : Frame) (off : BitVec 5) (w : BitVec 3) (s : State),
    1 ≤ w.toNat → w.toNat ≤ 4 → off.toNat + w.toNat ≤ 26 →
    ∃ t, exec (.decnum f off w) s = .next t ∧ Operates s s.regs t ∧
      t.out = { Outputs.undriven with raw := t.out.raw, scaled := t.out.scaled } ∧
      t.out.raw = ∑ i ∈ Finset.range w.toNat, (f.toList.getD (off.toNat + i) 0).toNat * 256 ^ i ∧
      t.out.scaled = (t.out.raw : Rat) / 1000) ∧
  (∀ (f : Frame) (off : BitVec 5) (w : BitVec 3) (s : State),
    ¬(1 ≤ w.toNat ∧ w.toNat ≤ 4) ∨ 26 < off.toNat + w.toNat →
    ∃ t, exec (.decnum f off w) s = .next t ∧ Operates s s.regs t ∧
      t.out = { Outputs.undriven with err := .badOperand })

/-- Operand legality (R82), the interface's refusal of a count over 23 among it; `m_in` and `a_in`
take every value of their widths. -/
def Obligations.OperandLegality : Prop :=
  (∀ (body : Body) (n : Nat) (s : State),
    (n ≤ 23 → ∃ t, exec (.build body n) s = .next t ∧ t.out.err = .none) ∧
    (23 < n → exec (.build body n) s = .refused (.notExpressible (.countOverLanes n)))) ∧
  (∀ (v : Rat) (w : BitVec 3) (s : State), ∃ t, exec (.encnum v w) s = .next t ∧
    (t.out.err = .badOperand ↔ w.toNat ∉ [1, 2, 3, 4]) ∧
    (t.out.err = .badOperand → Operates s s.regs t ∧ t.out = { Outputs.undriven with err := .badOperand })) ∧
  (∀ (f : Frame) (off : BitVec 5) (w : BitVec 3) (s : State), ∃ t, exec (.decnum f off w) s = .next t ∧
    (t.out.err = .badOperand ↔ w.toNat ∉ [1, 2, 3, 4] ∨ ¬ off.toNat + w.toNat ≤ 26) ∧
    (t.out.err = .badOperand → Operates s s.regs t ∧ t.out = { Outputs.undriven with err := .badOperand })) ∧
  (∀ (m : BitVec 16) (s : State), ∃ t, exec (.scanStart m) s = .next t ∧ t.out.err ≠ .badOperand) ∧
  (∀ (a : Byte) (s : State), ∃ t, exec (.cfgSetAddr a) s = .next t ∧ t.out.err = .none)

/-- The round-trip law (R113). -/
def Obligations.NumberRoundTrip : Prop :=
  ∀ (v : Rat) (w : BitVec 3) (off : BitVec 5) (f : Frame) (s t : State),
    exec (.encnum v w) s = .next t → t.out.err = .none → off.toNat + w.toNat ≤ 26 →
    (∀ i, i < w.toNat → f.toList.getD (off.toNat + i) 0 = t.out.bytes.getD i 0) →
      ∃ u, exec (.decnum f off w) s = .next u ∧ u.out.err = .none ∧ u.out.raw = t.out.raw ∧
        |u.out.scaled - v| ≤ 1 / 2000 ∧ ((∃ k : Int, v * 1000 = k) → u.out.scaled = v)

/-! ## Transmission -/

/-- SEND (R110). -/
def Obligations.SendStartsOrReportsBusy : Prop :=
  decodeTableWord 8 0x7 = some (.send zeroFrame) ∧
  (∀ (f : Frame) (s : State), s.regs.txBusy = false →
    ∃ t, exec (.send f) s = .next t ∧
      Operates s { s.regs with txBuf := f, txIdx := 0, txBusy := true } t ∧ t.out = .undriven) ∧
  (∀ (f : Frame) (s : State), s.regs.txBusy = true →
    ∃ t, exec (.send f) s = .next t ∧ Operates s s.regs t ∧
      t.out = { Outputs.undriven with err := .busy })

/-- One TX_BYTE (R111): enabled, not enabled, and the model's fault beyond the frame (log 16). -/
def Obligations.TxBytePushesTheNextByte : Prop :=
  (∀ (s : State) (h : s.regs.txIdx < 26), s.regs.txBusy = true →
    ∃ t, exec .txByte s = .next t ∧
      t.txChannel = s.txChannel ++ [s.regs.txBuf[s.regs.txIdx]] ∧
      t.regs = { s.regs with
        txIdx := s.regs.txIdx + 1, txBusy := decide (s.regs.txIdx + 1 ≠ 26) } ∧
      t.params = s.params ∧ t.out = s.out ∧ t.results = s.results ∧ t.rxChannel = s.rxChannel ∧
      t.inputs = s.inputs) ∧
  (∀ s : State, s.regs.txBusy = false → exec .txByte s = .next s) ∧
  (∀ s : State, s.regs.txBusy = true → 26 ≤ s.regs.txIdx →
    exec .txByte s = .fault (.frameOffset s.regs.txIdx))

/-- After an accepted SEND, `k` offers of tx_ready transmit the first `k` bytes in offset order, and
all 26 and no more when `k ≥ 26`; until then the block stays busy (R111, R53). -/
def Obligations.SendThenHandshakesTransmitTheFrame : Prop :=
  ∀ (s : State) (f : Frame) (img : List Byte) (k : Nat),
    s.regs.txBusy = false → encode (.send f) = .word img →
    s.inputs = [.word img] :: List.replicate k [.txReady] →
      ∃ t : State, Host.Core.run Sys2Proof.core (k + 1) s = .next t ∧
        t.txChannel = s.txChannel ++ f.toList.take k ∧ t.regs.txBuf = f ∧
        t.regs.txIdx = min k 26 ∧ (t.regs.txBusy = true ↔ k < 26) ∧
        t.rxChannel = s.rxChannel ∧ t.inputs = []

/-! ## The scanner -/

/-- SCAN_START (R171). -/
def Obligations.ScanStartBeginsOrReportsBusy : Prop :=
  decodeTableWord 8 0x8 = some (.scanStart 0) ∧
  (∀ (m : BitVec 16) (s : State), s.regs.scPhase = .idle ∨ s.regs.scPhase = .done →
    ∃ t, exec (.scanStart m) s = .next t ∧ t.out = .undriven ∧
      Operates s { s.regs with
        scWin := zeroFrame, scFill := 0, scExtra := 0, scMax := m, scCount := 0,
        scFrame := zeroFrame, scSync := false, scTmo := false, scPhase := .fill } t) ∧
  (∀ (m : BitVec 16) (s : State), s.regs.scPhase = .fill ∨ s.regs.scPhase = .hunt →
    ∃ t, exec (.scanStart m) s = .next t ∧ Operates s s.regs t ∧
      t.out = { Outputs.undriven with err := .busy })

/-- RX_BYTE in phase FILL (R172, ending by R174 or R175): the byte is the channel's oldest. -/
def Obligations.FillTakesOneByte : Prop :=
  ∀ (b : Byte) (rest : List Byte) (s : State), s.regs.scPhase = .fill →
    s.rxChannel = b :: rest →
    ∃ t, exec (.rxByteFill b) s = .next t ∧ t.rxChannel = rest ∧ ReceivesOnly s t ∧
      KeepsNonScan s.regs t.regs ∧
      (∀ i (h : i < 25), t.regs.scWin[i] = s.regs.scWin[i + 1]) ∧ t.regs.scWin[25] = b ∧
      t.regs.scFill = s.regs.scFill + 1 ∧ t.regs.scCount = s.regs.scCount + 1 ∧
      t.regs.scExtra = s.regs.scExtra ∧
      (s.regs.scFill + 1 ≠ 26 →
        t.regs.scPhase = .fill ∧ t.regs.scFrame = s.regs.scFrame ∧ t.regs.scSync = s.regs.scSync) ∧
      (s.regs.scFill + 1 = 26 → t.regs.scWin[0] = 0xAA →
        t.regs.scPhase = .done ∧ t.regs.scFrame = t.regs.scWin ∧ t.regs.scSync = true) ∧
      (s.regs.scFill + 1 = 26 → t.regs.scWin[0] ≠ 0xAA → s.regs.scMax = 0 →
        t.regs.scPhase = .done ∧ t.regs.scFrame = zeroFrame ∧ t.regs.scSync = false) ∧
      (s.regs.scFill + 1 = 26 → t.regs.scWin[0] ≠ 0xAA → s.regs.scMax ≠ 0 →
        t.regs.scPhase = .hunt ∧ t.regs.scFrame = s.regs.scFrame ∧ t.regs.scSync = s.regs.scSync)

/-- RX_BYTE in phase HUNT (R173, ending by R174 or R175): the marker test comes before the bound
test. -/
def Obligations.HuntTakesOneByte : Prop :=
  ∀ (b : Byte) (rest : List Byte) (s : State), s.regs.scPhase = .hunt →
    s.rxChannel = b :: rest →
    ∃ t, exec (.rxByteHunt b) s = .next t ∧ t.rxChannel = rest ∧ ReceivesOnly s t ∧
      KeepsNonScan s.regs t.regs ∧
      (∀ i (h : i < 25), t.regs.scWin[i] = s.regs.scWin[i + 1]) ∧ t.regs.scWin[25] = b ∧
      t.regs.scFill = s.regs.scFill ∧ t.regs.scCount = s.regs.scCount + 1 ∧
      t.regs.scExtra = s.regs.scExtra + 1 ∧
      (t.regs.scWin[0] = 0xAA →
        t.regs.scPhase = .done ∧ t.regs.scFrame = t.regs.scWin ∧ t.regs.scSync = true) ∧
      (t.regs.scWin[0] ≠ 0xAA → t.regs.scExtra = s.regs.scMax.toNat →
        t.regs.scPhase = .done ∧ t.regs.scFrame = zeroFrame ∧ t.regs.scSync = false) ∧
      (t.regs.scWin[0] ≠ 0xAA → t.regs.scExtra ≠ s.regs.scMax.toNat →
        t.regs.scPhase = .hunt ∧ t.regs.scFrame = s.regs.scFrame ∧ t.regs.scSync = s.regs.scSync)

/-- What the model takes a receive handshake to be elsewhere (log 10): in another phase, or with
another byte than the channel's oldest, no byte moves; with an empty channel the byte is delivered
in the handshake itself, as if it had waited in the channel. -/
def Obligations.ReceiveHandshakeAgainstTheChannel : Prop :=
  ∀ (b : Byte) (s : State),
    (s.regs.scPhase ≠ .fill → exec (.rxByteFill b) s = .next s) ∧
    (s.regs.scPhase ≠ .hunt → exec (.rxByteHunt b) s = .next s) ∧
    (∀ c rest, s.rxChannel = c :: rest → c ≠ b →
      exec (.rxByteFill b) s = .next s ∧ exec (.rxByteHunt b) s = .next s) ∧
    (s.rxChannel = [] →
      (s.regs.scPhase = .fill →
        exec (.rxByteFill b) s = exec (.rxByteFill b) { s with rxChannel := [b] }) ∧
      (s.regs.scPhase = .hunt →
        exec (.rxByteHunt b) s = exec (.rxByteHunt b) { s with rxChannel := [b] }))

/-- RX_TIMEOUT (R176). -/
def Obligations.TimeoutEndsABusyScan : Prop :=
  (∀ s : State, s.regs.scPhase = .fill ∨ s.regs.scPhase = .hunt →
    ∃ t, exec .rxTimeout s = .next t ∧ ReceivesOnly s t ∧ t.rxChannel = s.rxChannel ∧
      t.regs = { s.regs with
        scFrame := zeroFrame, scSync := false, scTmo := true, scPhase := .done }) ∧
  (∀ s : State, s.regs.scPhase = .idle ∨ s.regs.scPhase = .done → exec .rxTimeout s = .next s)

/-- SCAN_START and then one rx_valid for each byte of the channel, with or without a timeout pulse
after them, reach exactly what the function `scan` of R178 gives. -/
def Obligations.ScannerRefinesTheScanFunction : Prop :=
  ∀ (s : State) (m : BitVec 16) (img : List Byte) (timeoutArrives : Bool) (r : ScanResult),
    s.regs.scPhase = .idle ∨ s.regs.scPhase = .done →
    encode (.scanStart m) = .word img →
    s.inputs = [.word img] :: (List.replicate s.rxChannel.length [.rxValid] ++
      if timeoutArrives then [[.timeout]] else []) →
    r = scan s.rxChannel m.toNat timeoutArrives →
      ∃ t : State, Host.Core.run Sys2Proof.core s.inputs.length s = .next t ∧
        t.regs.scFrame.toList = r.frame ∧
        (t.regs.scSync = true ↔ r.outcome = .sync) ∧
        (t.regs.scTmo = true ↔ r.outcome = .timeout) ∧
        t.regs.scCount = r.consumed ∧
        t.rxChannel = s.rxChannel.drop r.consumed ∧
        ((t.regs.scPhase = .fill ∨ t.regs.scPhase = .hunt) ↔ r.outcome = .stillBusy)

/-- The recovery law (R179). -/
def Obligations.ScanRecoversAfterGarbage : Prop :=
  ∀ (g F r : List Byte) (m : Nat) (timeoutArrives : Bool),
    0xAA ∉ g → F.length = 26 → F.head? = some 0xAA →
      (g.length ≤ m →
        scan (g ++ F ++ r) m timeoutArrives = ⟨.sync, F, 26 + g.length⟩ ∧
        (g ++ F ++ r).drop (26 + g.length) = r) ∧
      (m < g.length →
        scan (g ++ F ++ r) m timeoutArrives = ⟨.fail, zeroFrame.toList, 26 + m⟩ ∧
        ∃ left, left ≠ [] ∧ left <:+ F ∧ left ++ r <:+ (g ++ F ++ r).drop (26 + m))

/-- The scan locks on the first marker it meets, a true one or not (R180), and fails without one
(R181). -/
def Obligations.ScanLocksOnTheFirstMarker : Prop :=
  ∀ (bytes : List Byte) (m : Nat) (timeoutArrives : Bool),
    (∀ p, p ≤ m → 26 + p ≤ bytes.length → bytes[p]? = some 0xAA →
      (∀ q, q < p → bytes[q]? ≠ some 0xAA) →
      scan bytes m timeoutArrives = ⟨.sync, (bytes.drop p).take 26, 26 + p⟩) ∧
    (26 + m ≤ bytes.length → (∀ q, q ≤ m → bytes[q]? ≠ some 0xAA) →
      scan bytes m timeoutArrives = ⟨.fail, zeroFrame.toList, 26 + m⟩)

/-! ## Invariants and whole-machine rules -/

/-- The invariant holds at reset. -/
def Obligations.ResetMeetsInv : Prop := StateInv State.reset

/-- Every step keeps the invariant: R27, the ranges of R20, the cleared results of R26, and the
transmitter of R28. -/
def Obligations.StepKeepsInv : Prop :=
  ∀ s t : State, StateInv s → step s = .next t → StateInv t

/-- R27 in every state reachable from reset, whatever the environment does, for every parameter. -/
def Obligations.ReachableStatesMeetScannerLaws : Prop :=
  ∀ (params : Params) (rx : List Byte) (inputs : List (List PortInput)) (k : Nat) (t : State),
    Host.Core.run Sys2Proof.core k
      { State.reset with params := params, rxChannel := rx, inputs := inputs } = .next t →
      ScannerLaws t.regs

/-- With an admitted layout and a next byte for a frame being transmitted, no well-formed
instruction stops; with the invariant and a schedule that decodes, no step stops. -/
def Obligations.NothingStopsAReadyMachine : Prop :=
  (∀ (i : Instr) (s : State), Ready s → i.wellFormed = true → ∃ t, exec i s = .next t) ∧
  (∀ s : State, StateInv s → layoutAdmitted s.params.layout = true → ScheduleDecodes s →
    ∃ t, step s = .next t ∧ StateInv t ∧ ScheduleDecodes t)

/-- `ADDR` is written only by CFG_SET_ADDR and by reset (R23), and no step changes a parameter. -/
def Obligations.AddrWrittenOnlyByConfigAndReset : Prop :=
  (∀ (i : Instr) (s t : State), (∀ a, i ≠ .cfgSetAddr a) → exec i s = .next t →
    t.regs.addr = s.regs.addr ∧ t.params = s.params) ∧
  (∀ s t : State, step s = .next t → t.params = s.params ∧
    (t.regs.addr ≠ s.regs.addr →
      ∃ cycle cycles, s.inputs = cycle :: cycles ∧
        (.rst ∈ cycle ∨ ∃ img a, cycle.head? = some (.word img) ∧ decode img = .ok (.cfgSetAddr a) ∧
          t.regs.addr = a)))

/-- The "written by" column of R20's table, row by row, as far as instructions write (StartByte is an
RX_BYTE of the scanner, log 9). -/
def Obligations.RegistersHaveOnlyTheirWriters : Prop :=
  ∀ (i : Instr) (s t : State), exec i s = .next t →
    ((∀ a, i ≠ .cfgSetAddr a) → t.regs.addr = s.regs.addr) ∧
    ((∀ f, i ≠ .send f) → t.regs.txBuf = s.regs.txBuf) ∧
    ((∀ f, i ≠ .send f) → i ≠ .txByte →
      t.regs.txIdx = s.regs.txIdx ∧ t.regs.txBusy = s.regs.txBusy) ∧
    (i ≠ .txByte → t.txChannel = s.txChannel) ∧
    ((∀ m, i ≠ .scanStart m) → t.regs.scMax = s.regs.scMax) ∧
    ((∀ m, i ≠ .scanStart m) → i ≠ .rxTimeout → t.regs.scTmo = s.regs.scTmo) ∧
    ((∀ m, i ≠ .scanStart m) → (∀ b, i ≠ .rxByteFill b) → (∀ b, i ≠ .rxByteHunt b) →
      i ≠ .startByte →
      t.regs.scWin = s.regs.scWin ∧ t.regs.scFill = s.regs.scFill ∧
      t.regs.scExtra = s.regs.scExtra ∧ t.regs.scCount = s.regs.scCount ∧
      t.rxChannel = s.rxChannel ∧
      (i ≠ .rxTimeout → t.regs.scPhase = s.regs.scPhase ∧ t.regs.scFrame = s.regs.scFrame ∧
        t.regs.scSync = s.regs.scSync))

/-- No error is sticky and none blocks a later operation (R244): what an instruction does, and what
a transaction drives, do not depend on any earlier result. No result outlasts its operation (R30;
log 11): the port shows one only in the step of the transaction that drives it, and none after a turn
of the host's environment. -/
def Obligations.ErrorsAreNotSticky : Prop :=
  (∀ (i : Instr) (s t : State) (out : Outputs) (results : List Outputs), exec i s = .next t →
    ∃ u, exec i { s with out := out, results := results } = .next u ∧ u.regs = t.regs ∧
      u.params = t.params ∧ u.rxChannel = t.rxChannel ∧ u.txChannel = t.txChannel ∧
      u.inputs = t.inputs ∧ (drivesResult i = true → u.out = t.out)) ∧
  (∀ s t : State, step s = .next t → t.out ≠ .undriven →
    ∃ img i others cycles, s.inputs = (.word img :: others) :: cycles ∧ .rst ∉ others ∧
      decode img = .ok i ∧ drivesResult i = true) ∧
  ∀ (p : HostParams) (h : HostState) (e : EnvEvent),
    (takeTurn p h (.env e)).block.out = .undriven

/-- The codes each operation can drive (R242): no other, and each of them in some state. The port
events drive none. -/
def Obligations.ErrorCodesOfEachOperation : Prop :=
  DrivesExactly (· = .nop) [0] ∧
  DrivesExactly (fun i => ∃ a, i = .cfgSetAddr a) [0] ∧
  DrivesExactly (fun i => ∃ body n, i = .build body n) [0] ∧
  DrivesExactly (fun i => ∃ f, i = .checksum f) [0] ∧
  DrivesExactly (fun i => ∃ f, i = .check f) [0, 4] ∧
  DrivesExactly (fun i => ∃ v w, i = .encnum v w) [0, 6, 7] ∧
  DrivesExactly (fun i => ∃ f off w, i = .decnum f off w) [0, 7] ∧
  DrivesExactly (fun i => ∃ f, i = .send f) [0, 9] ∧
  DrivesExactly (fun i => ∃ m, i = .scanStart m) [0, 9] ∧
  DrivesExactly (fun i => ∃ f, i = .ackMatch f) [0, 1, 2, 3, 5] ∧
  DrivesExactly (fun i => ∃ f, i = .statusDecode f) [0, 1, 2, 4] ∧
  (∀ i ∈ [Instr.reservedOpB, .reservedOpC, .reservedOpD, .reservedOpE, .reservedOpF],
    DrivesExactly (· = i) [8]) ∧
  ∀ (s t : State) (b : Byte),
    exec (.rxByteFill b) s = .next t ∨ exec (.rxByteHunt b) s = .next t ∨
      exec .rxTimeout s = .next t ∨ exec .txByte s = .next t →
      t.out = s.out ∧ t.results = s.results

/-! ## The validators -/

/-- ACK_MATCH (R200) and its error class (R201). -/
def Obligations.AckMatchJudgesAFrame : Prop :=
  decodeTableWord 8 0x9 = some (.ackMatch zeroFrame) ∧
  ∀ (f : Frame) (s : State), ∃ t, exec (.ackMatch f) s = .next t ∧ Operates s s.regs t ∧
    t.out = { Outputs.undriven with
      matched := t.out.matched, ack := t.out.ack, ok := t.out.ok, err := t.out.err } ∧
    (t.out.matched = true ↔ f[0] = 0xAA ∧ f[1] = s.regs.addr ∧ f[2] = 0x12) ∧
    t.out.ack = (if t.out.matched then f[3] else 0xFF) ∧
    (t.out.ok = true ↔ t.out.ack = 0x80) ∧
    t.out.err = (if f[0] ≠ 0xAA then .framingLoss
      else if f[1] ≠ s.regs.addr then .addrMismatch
      else if f[2] ≠ 0x12 then .opcodeMismatch
      else if f[3] ≠ 0x80 then .nack
      else .none) ∧
    (t.out.err = .none ↔ t.out.ok = true)

/-- STATUS_DECODE's verdict (R202) and its error class (R203), under every admitted layout; the
snapshot is driven whether valid or not. -/
def Obligations.StatusDecodeJudgesAFrame : Prop :=
  decodeTableWord 8 0xA = some (.statusDecode zeroFrame) ∧
  ∀ (f : Frame) (s : State), layoutAdmitted s.params.layout = true →
    ∃ t, exec (.statusDecode f) s = .next t ∧ Operates s s.regs t ∧
      t.out = { Outputs.undriven with ok := t.out.ok, snap := t.out.snap, err := t.out.err } ∧
      t.out.snap = decodeStatus s.params.layout f ∧
      (t.out.ok = true ↔ f[0] = 0xAA ∧ f[1] = s.regs.addr ∧ (f[25]).toNat = frameSum f % 256) ∧
      t.out.err = (if f[0] ≠ 0xAA then .framingLoss
        else if f[1] ≠ s.regs.addr then .addrMismatch
        else if (f[25]).toNat ≠ frameSum f % 256 then .checksumMismatch
        else .none) ∧
      (t.out.err = .none ↔ t.out.ok = true)

/-- The snapshot's fields (R204 to R209) under every layout; `b` is the status byte and `raw k` the
little-endian sum of a field. -/
def Obligations.SnapshotFields : Prop :=
  ∀ (f : Frame) (l : StatusLayout) (b : Byte) (raw : FieldAt → Nat),
    layoutAdmitted l = true → b = f.toList.getD l.status.off 0 →
    (∀ k, raw k = ∑ i ∈ Finset.range k.width, (f.toList.getD (k.off + i) 0).toNat * 256 ^ i) →
      (decodeStatus l f).address = f[1] ∧ (decodeStatus l f).echoedCmd = f[2] ∧
      ((decodeStatus l f).outputEnable = true ↔ b.toNat % 2 = 1) ∧
      ((decodeStatus l f).overHeat = true ↔ b.toNat / 2 % 2 = 1) ∧
      (decodeStatus l f).outputMode =
        (if b.toNat / 4 % 4 = 1 then .cv else if b.toNat / 4 % 4 = 2 then .cc else .ur) ∧
      (decodeStatus l f).fanSpeed = b.toNat / 16 % 8 ∧
      (decodeStatus l f).operationState = (if b.toNat / 128 = 1 then .remote else .frontPanel) ∧
      (decodeStatus l f).outputCurrentRaw = raw l.measI ∧
      (decodeStatus l f).outputVoltageRaw = raw l.measV ∧
      (decodeStatus l f).targetCurrentRaw = raw l.tgtI ∧
      (decodeStatus l f).targetVoltageRaw = raw l.tgtV ∧
      (decodeStatus l f).maximumVoltageRaw = raw l.maxV ∧
      (decodeStatus l f).outputCurrent = (raw l.measI : Rat) / 1000 ∧
      (decodeStatus l f).outputVoltage = (raw l.measV : Rat) / 1000 ∧
      (decodeStatus l f).targetCurrent = (raw l.tgtI : Rat) / 1000 ∧
      (decodeStatus l f).targetVoltage = (raw l.tgtV : Rat) / 1000 ∧
      (decodeStatus l f).maximumVoltage = (raw l.maxV : Rat) / 1000

/-- Layout well-formedness (R212), and the refusal of a layout that fails it. -/
def Obligations.LayoutAdmission : Prop :=
  (∀ l : StatusLayout, layoutAdmitted l = true ↔
    (∀ k ∈ [l.status, l.measI, l.measV, l.tgtI, l.maxV, l.tgtV],
      ∀ o, k.off ≤ o → o < k.off + k.width → 3 ≤ o ∧ o ≤ 24) ∧
    l.status.width = 1 ∧
    (∀ k ∈ [l.measI, l.measV, l.tgtI, l.maxV, l.tgtV], k.width ∈ [1, 2, 3, 4]) ∧
    [l.status, l.measI, l.measV, l.tgtI, l.maxV, l.tgtV].Pairwise fun j k =>
      ∀ o, ¬(j.off ≤ o ∧ o < j.off + j.width ∧ k.off ≤ o ∧ o < k.off + k.width)) ∧
  (∀ (f : Frame) (s : State), layoutAdmitted s.params.layout = false →
    exec (.statusDecode f) s = .refused .layoutNotAdmitted) ∧
  layoutAdmitted defaultLayout = true

/-- The all-zero frame of a failed scan passes CHECK, and both validators reject it at every `ADDR`
(R175, R200, R202, R285). -/
def Obligations.FailureFrameIsNeverAccepted : Prop :=
  ∀ s : State,
    (∃ t, exec (.check zeroFrame) s = .next t ∧ t.out.ok = true) ∧
    (∃ t, exec (.ackMatch zeroFrame) s = .next t ∧ t.out.matched = false ∧ t.out.ack = 0xFF ∧
      t.out.ok = false ∧ t.out.err = .framingLoss) ∧
    (layoutAdmitted s.params.layout = true →
      ∃ t, exec (.statusDecode zeroFrame) s = .next t ∧ t.out.ok = false ∧ t.out.err = .framingLoss)

/-! ## The wire commands -/

/-- RemoteEnable and OutputEnable (R130, R131): the frame with the boolean byte at offset 3
(0x01 and 0x00 are PRESUMED by the spec, I11; log 18). -/
def Obligations.BooleanCommandsBuildTheirFrames : Prop :=
  ∀ (en : Bool) (s : State),
    ∀ c ∈ [(Instr.remoteEnable en, (0x20 : Byte)), (.outputEnable en, 0x21)],
      ∃ t, exec c.1 s = .next t ∧ Operates s s.regs t ∧
        t.out = { Outputs.undriven with frame := t.out.frame } ∧
        CommandFrame s.regs.addr c.2 [if en then 0x01 else 0x00] t.out.frame

/-- SetLimitV, SetOutputV, SetOutputI (R132 to R134): ENCNUM's result, then BUILD's frame with its
bytes, in range or not (doing both on `RANGE` is the model's choice, log 7). -/
def Obligations.NumericCommandsEncodeAndBuild : Prop :=
  ∀ (v : Rat) (s : State),
    ∀ c ∈ [(Instr.setLimitV v, (0x22 : Byte), 4), (.setOutputV v, 0x23, 4), (.setOutputI v, 0x24, 2)],
      ∃ (t : State) (e : Outputs) (raw : Int), exec c.1 s = .next t ∧
        t.results = s.results ++ [e, t.out] ∧
        t.regs = s.regs ∧ t.params = s.params ∧ t.rxChannel = s.rxChannel ∧
        t.txChannel = s.txChannel ∧ t.inputs = s.inputs ∧
        IsRound s.params.tieRule (v * 1000) raw ∧
        e = { Outputs.undriven with raw := e.raw, bytes := e.bytes, ok := e.ok, err := e.err } ∧
        (e.raw : Int) = raw % 256 ^ c.2.2 ∧ e.bytes.length = c.2.2 ∧
        (∀ i (h : i < e.bytes.length), (e.bytes[i]).toNat = e.raw / 256 ^ i % 256) ∧
        (e.ok = true ↔ 0 ≤ raw ∧ raw < 256 ^ c.2.2) ∧
        e.err = (if e.ok then .none else .range) ∧
        t.out = { Outputs.undriven with frame := t.out.frame } ∧
        CommandFrame s.regs.addr c.2.1 e.bytes t.out.frame

/-- SetAddress (R135): the new address at offset 3 (PRESUMED by the spec, I12; log 19); `ADDR` does
not change. -/
def Obligations.SetAddressLeavesAddrAlone : Prop :=
  ∀ (a : Byte) (s : State), ∃ t, exec (.setAddress a) s = .next t ∧ Operates s s.regs t ∧
    t.out = { Outputs.undriven with frame := t.out.frame } ∧
    CommandFrame s.regs.addr 0x25 [a] t.out.frame

/-- ReadConfig (R136): no payload. -/
def Obligations.ReadConfigBuildsItsFrame : Prop :=
  ∀ s : State, ∃ t, exec .readConfig s = .next t ∧ Operates s s.regs t ∧
    t.out = { Outputs.undriven with frame := t.out.frame } ∧
    CommandFrame s.regs.addr 0x26 [] t.out.frame

/-- The twelve commands with a raw payload (R137 to R148). -/
def Obligations.RawPayloadCommandsBuildTheirFrames : Prop :=
  ∀ c ∈ payloadCommands, ∀ (payload : List Byte) (s : State), payload.length ≤ 22 →
    ∃ t, exec (c.1 payload) s = .next t ∧ Operates s s.regs t ∧
      t.out = { Outputs.undriven with frame := t.out.frame } ∧
      CommandFrame s.regs.addr c.2 payload t.out.frame

/-- ReturnInfo (R149): an acknowledgement frame from the device address `addr` with the code `ack`,
whatever follows, is recognised by ACK_MATCH (taking it so is the model's choice, log 8). -/
def Obligations.ReturnInfoIsRecognised : Prop :=
  ∀ (addr ack : Byte) (rest : Vector Byte 22) (s : State),
    ∃ t, exec (.returnInfo addr ack rest) s = .next t ∧ Operates s s.regs t ∧
      (addr = s.regs.addr →
        t.out = { Outputs.undriven with
          matched := true, ack := ack, ok := decide (ack = 0x80),
          err := if ack = 0x80 then .none else .nack }) ∧
      (addr ≠ s.regs.addr →
        t.out = { Outputs.undriven with ack := 0xFF, err := .addrMismatch })

/-- StartByte (R150): the byte 0xAA joins the receive channel, and the oldest byte moves if the
scanner is busy, by the very events of R172 and R173 (taking it so is the model's choice, log 9). -/
def Obligations.StartByteArrivesAtTheReceivePort : Prop :=
  ∀ (s u : State) (b : Byte) (rest : List Byte), s.rxChannel ++ [0xAA] = b :: rest →
    u = { s with rxChannel := s.rxChannel ++ [0xAA] } →
    (s.regs.scPhase = .idle ∨ s.regs.scPhase = .done → exec .startByte s = .next u) ∧
    (s.regs.scPhase = .fill →
      ∃ t, exec .startByte s = .next t ∧ exec (.rxByteFill b) u = .next t ∧ t.rxChannel = rest ∧
        ReceivesOnly s t ∧ t.regs.scFill = s.regs.scFill + 1 ∧ t.regs.scWin[25] = b) ∧
    (s.regs.scPhase = .hunt →
      ∃ t, exec .startByte s = .next t ∧ exec (.rxByteHunt b) u = .next t ∧ t.rxChannel = rest ∧
        ReceivesOnly s t ∧ t.regs.scExtra = s.regs.scExtra + 1 ∧ t.regs.scWin[25] = b)

/-! ## The host's procedures -/

/-- The write-count law (R257), for every behaviour of the transport and every order of turns: a
`host_send` of any one-shot operation's frame or of any BUILD's frame, or a status query, that succeeds
on attempt `j` has written `j` frames, one that fails `MAX_ATTEMPTS`, and a rejected input none. A ready
host begins the `host_send` of a BUILD's frame (R252) with that very frame (log 23). -/
def Obligations.HostWritesAsManyFramesAsAttempts : Prop :=
  (∀ (p : HostParams) (turns : List Turn) (s : State) (task : HostTask) (h : HostState),
    StateInv s → 1 ≤ p.maxAttempts → h = hostRun p turns (hostOf s [task]) →
      (∀ j, h.reports = [.success j] ∨ (∃ snap, h.reports = [.status j snap]) →
        1 ≤ j ∧ j ≤ p.maxAttempts ∧ txTotal h.block = txTotal s + 26 * j) ∧
      (∀ j e tmo, h.reports = [.transmitFailure j e tmo] ∨ h.reports = [.queryFailure j e tmo] →
        j = p.maxAttempts ∧ txTotal h.block = txTotal s + 26 * p.maxAttempts) ∧
      (h.reports = [.callerError] → txTotal h.block = txTotal s)) ∧
  ∀ (p : HostParams) (h : HostState) (bodyIn : Body) (nIn : Fin 24) (rest : List HostTask),
    1 ≤ p.maxAttempts → h.pc = .ready → h.todo = .send bodyIn nIn :: rest →
      ∃ t, exec (.build bodyIn nIn.val) h.block = .next t ∧
        hostTurn p h =
          { block := t, pc := .waitTx (.send bodyIn nIn) t.out.frame 1, todo := rest,
            reports := h.reports }

/-- Input hardening (R256): on `RANGE` the host neither builds nor sends, and reports at once. -/
def Obligations.HostRejectsOutOfRangeInput : Prop :=
  ∀ (p : HostParams) (h : HostState) (v : Rat) (rest : List HostTask) (e : State),
    ∀ c ∈ [(OneShot.setOutputVoltage v, (4 : BitVec 3)), (.setOutputCurrent v, 2),
        (.setMaximumVoltage v, 4)],
      h.pc = .ready → h.todo = .oneShot c.1 :: rest →
      exec (.encnum v c.2) h.block = .next e → e.out.err = .range →
        hostTurn p h =
          { block := e, pc := .ready, todo := rest, reports := h.reports ++ [.callerError] } ∧
        e.regs = h.block.regs ∧ e.txChannel = h.block.txChannel ∧
        e.results = h.block.results ++ [e.out]

/-- `close()` (R254) attempts `output_enable(false)` and then `remote_control(false)`, whatever the
first one's outcome. At every moment of every run the operations not yet reported are the one under
way and then the waiting ones, in that order. With an attempt to make, a host that is ready begins
the operation that waits first: it builds its frame and goes to attempt 1, whatever it has reported
so far (log 23; the byte 0x00: log 18). -/
def Obligations.CloseAttemptsBothOperations : Prop :=
  (∀ (p : HostParams) (turns : List Turn) (s : State) (h : HostState),
    h = hostRun p turns (hostOf s closeTasks) →
      h.reports.length + h.todo.length + h.pc.underWay.length = 2 ∧
      h.pc.underWay ++ h.todo =
        [.oneShot (.outputEnable false), .oneShot (.remoteControl false)].drop h.reports.length) ∧
  ∀ (p : HostParams) (h : HostState) (rest : List HostTask), 1 ≤ p.maxAttempts → h.pc = .ready →
    ∀ c ∈ [(OneShot.outputEnable false, Instr.outputEnable false, (0x21 : Byte)),
        (.remoteControl false, .remoteEnable false, 0x20)],
      h.todo = .oneShot c.1 :: rest →
        ∃ t, exec c.2.1 h.block = .next t ∧ Operates h.block h.block.regs t ∧
          CommandFrame h.block.regs.addr c.2.2 [0x00] t.out.frame ∧
          hostTurn p h =
            { block := t, pc := .waitTx (.oneShot c.1) t.out.frame 1, todo := rest,
              reports := h.reports }
end

