-- ==== Sys2Proof/Laws/Encoding.lean ====
section
/-! SUPPORT. Reading what was written: numbers, rationals, byte vectors and lanes. -/

namespace Sys2Proof

theorem readNat_natBytes (fuel : Nat) :
    ∀ (x : Nat) (rest : List Byte), x ≤ fuel → readNat (natBytes fuel x ++ rest) = some (x, rest) := by
  induction fuel with
  | zero =>
    intro x rest hx
    obtain rfl : x = 0 := by omega
    simp [natBytes, readNat]
  | succ fuel ih =>
    intro x rest hx
    by_cases h : x < 128
    · have hb : x % 256 = x := by omega
      simp [natBytes, readNat, h, hb]
    · have hb : (128 + x % 128) % 256 = 128 + x % 128 := by omega
      have hq : x / 128 ≤ fuel := by omega
      simp [natBytes, readNat, h, hb, ih _ rest hq]
      omega

theorem signUnfold_signFold (x : Int) : signUnfold (signFold x) = x := by
  cases x with
  | ofNat n => simp [signFold, signUnfold]
  | negSucc n =>
    have h1 : (2 * n + 1) % 2 = 1 := by omega
    have h2 : (2 * n + 1) / 2 = n := by omega
    simp [signFold, signUnfold, h1, h2]

theorem readRat_ratBytes (v : Rat) (rest : List Byte) :
    readRat (ratBytes v ++ rest) = some (v, rest) := by
  have hden : v.den - 1 + 1 = v.den := Nat.succ_pred_eq_of_pos v.den_pos
  simp [readRat, ratBytes, List.append_assoc, readNat_natBytes _ _ _ (Nat.le_refl _),
    signUnfold_signFold, hden, Rat.mkRat_self]

theorem readBytes_toList {k : Nat} (v : Vector Byte k) (rest : List Byte) :
    readBytes k (v.toList ++ rest) = some (v, rest) := by
  have hl : v.toList.length = k := by simp
  have ht : (v.toList ++ rest).take k = v.toList := by
    rw [List.take_append_of_le_length (by omega), List.take_of_length_le (by omega)]
  have hd : (v.toList ++ rest).drop k = rest := by
    rw [List.drop_append_of_le_length (by omega), List.drop_of_length_le (by omega)]; simp
  unfold readBytes
  rw [dif_pos (by rw [ht, hl])]
  simp only [ht, hd, Option.some.injEq, Prod.mk.injEq, and_true]
  exact Vector.toArray_inj.mp (show v.toArray.toList.toArray = v.toArray by simp)

theorem splitLane16 (m : BitVec 16) : (m >>> 8).setWidth 8 ++ m.setWidth 8 = m := by
  ext i hi
  simp only [BitVec.getElem_append, BitVec.getElem_setWidth, BitVec.getLsbD_ushiftRight]
  split
  · simp [BitVec.getLsbD_eq_getElem, hi]
  · have : 8 + (i - 8) = i := by omega
    simp [this, BitVec.getLsbD_eq_getElem, hi]

/-- Reading the image of some lanes gives those lanes. -/
theorem readLanes_laneBytes (l : Lanes) : readLanes (laneBytes l) = .ok l := by
  have hw : ¬ 8 ≤ (l.w.setWidth 8).toNat := by
    have := l.w.isLt
    simp only [BitVec.toNat_setWidth]; omega
  have ho : ¬ 32 ≤ (l.off.setWidth 8).toNat := by
    have := l.off.isLt
    simp only [BitVec.toNat_setWidth]; omega
  have hr := readRat_ratBytes l.num []
  rw [List.append_nil] at hr
  have hw' : (l.w.setWidth 8).setWidth 3 = l.w := by
    apply BitVec.eq_of_toNat_eq; have := l.w.isLt
    simp only [BitVec.toNat_setWidth]; omega
  have ho' : (l.off.setWidth 8).setWidth 5 = l.off := by
    apply BitVec.eq_of_toNat_eq; have := l.off.isLt
    simp only [BitVec.toNat_setWidth]; omega
  simp only [laneBytes, readLanes, readBytes_toList, hr, ne_eq, not_true_eq_false, if_false, hw, ho,
    hw', ho', splitLane16]

/-- Decoding the image of some lanes is decoding the lanes. -/
theorem decode_laneBytes (l : Lanes) : decode (laneBytes l) = decodeLanes l := by
  simp [decode, readLanes_laneBytes]

end Sys2Proof
end

