-- ==== Sys2Proof/Laws/Frames.lean ====
section
/-! SUPPORT. The bytes of the frames that the operations make, and the checksum as a sum. -/

namespace Sys2Proof.Machine

/-! ## Byte by byte -/

@[simp] theorem openFrame_marker (addr : Byte) (body : Body) : (openFrame addr body)[0] = marker := by
  simp [openFrame]

@[simp] theorem openFrame_addr (addr : Byte) (body : Body) : (openFrame addr body)[1] = addr := by
  simp [openFrame]

theorem openFrame_body (addr : Byte) (body : Body) (i : Nat) (h : i < 23) :
    (openFrame addr body)[2 + i] = body[i] := by
  have h1 : 2 + i ≠ 1 := by omega
  simp [openFrame, h1, h]

theorem sealFrame_below (f : Frame) (i : Nat) (h : i < 25) : (sealFrame f)[i] = f[i] := by
  have : 25 ≠ i := by omega
  simp [sealFrame, this]

@[simp] theorem sealFrame_last (f : Frame) : (sealFrame f)[25] = cksum f := by
  simp [sealFrame]

theorem countedBody_getElem (body : Body) (n i : Nat) (h : i < 23) :
    (countedBody body n)[i] = if i < n then body[i] else 0 := by
  simp [countedBody]

theorem bodyOf_getElem (bytes : List Byte) (i : Nat) (h : i < 23) :
    (bodyOf bytes)[i] = bytes.getD i 0 := by
  simp [bodyOf]

theorem shiftIn_below (win : Frame) (b : Byte) (i : Nat) (h : i < 25) :
    (shiftIn win b)[i] = win[i + 1] := by
  have : i + 1 < 26 := by omega
  simp [shiftIn, this]

@[simp] theorem shiftIn_last (win : Frame) (b : Byte) : (shiftIn win b)[25] = b := by
  simp [shiftIn]

/-- The first four bytes of an acknowledgement (R72). -/
theorem ackFrame_head (addr ack : Byte) (rest : Vector Byte 22) :
    (ackFrame addr ack rest)[0] = marker ∧ (ackFrame addr ack rest)[1] = addr ∧
      (ackFrame addr ack rest)[2] = returnInfoCode ∧ (ackFrame addr ack rest)[3] = ack := by
  simp [ackFrame]

/-- The window after a byte is the old one without its oldest byte, then that byte (R53). -/
theorem shiftIn_toList (win : Frame) (b : Byte) : (shiftIn win b).toList = win.toList.tail ++ [b] := by
  apply List.ext_getElem
  · simp
  · intro i h1 h2
    have hi : i < 26 := by simpa using h1
    by_cases h : i < 25
    · rw [List.getElem_append_left (by simpa using h)]
      simpa using shiftIn_below win b i h
    · obtain rfl : i = 25 := by omega
      simp

/-! ## The checksum -/

theorem take25_eq_ofFn (f : Frame) : f.toList.take 25 = List.ofFn fun i : Fin 25 => f[i.val] := by
  apply List.ext_getElem
  · simp
  · intro i h1 h2
    rw [List.getElem_ofFn]; simp

/-- The checksum as the spec's sum (R13). -/
theorem cksum_toNat (f : Frame) : (cksum f).toNat = frameSum f % 256 := by
  rw [cksum, take25_eq_ofFn, List.map_ofFn, List.sum_ofFn]
  simp [frameSum]

/-- Offset 25 plays no part in the checksum. -/
theorem frameSum_congr {f g : Frame} (h : ∀ i (hi : i < 25), f[i] = g[i]) :
    frameSum f = frameSum g :=
  Finset.sum_congr rfl fun i _ => by rw [h i.val i.isLt]

theorem frameSum_sealFrame (f : Frame) : frameSum (sealFrame f) = frameSum f :=
  frameSum_congr fun i hi => sealFrame_below f i hi

/-- CHECK's test, read as numbers. -/
theorem last_eq_cksum (f : Frame) : f[25] = cksum f ↔ (f[25]).toNat = frameSum f % 256 := by
  rw [← cksum_toNat]; exact BitVec.toNat_inj.symm

/-- A sealed frame carries its own checksum. -/
theorem sealFrame_checks (f : Frame) :
    ((sealFrame f)[25]).toNat = frameSum (sealFrame f) % 256 := by
  rw [sealFrame_last, frameSum_sealFrame, cksum_toNat]

/-! ## BUILD's frame (R103) -/

theorem buildFrame_marker (addr : Byte) (body : Body) (n : Nat) : (buildFrame addr body n)[0] = 0xAA := by
  rw [buildFrame, sealFrame_below _ 0 (by omega), openFrame_marker]; rfl

theorem buildFrame_addr (addr : Byte) (body : Body) (n : Nat) : (buildFrame addr body n)[1] = addr := by
  rw [buildFrame, sealFrame_below _ 1 (by omega), openFrame_addr]

theorem buildFrame_body (addr : Byte) (body : Body) (n i : Nat) (h : i < 23) :
    (buildFrame addr body n)[2 + i] = if i < n then body[i] else 0 := by
  rw [buildFrame, sealFrame_below _ (2 + i) (by omega), openFrame_body _ _ i h, countedBody_getElem]

theorem buildFrame_checks (addr : Byte) (body : Body) (n : Nat) :
    ((buildFrame addr body n)[25]).toNat = frameSum (buildFrame addr body n) % 256 :=
  sealFrame_checks _

/-- The frame of a wire command (R120): the opcode, and the payload with zeros after it. -/
theorem buildFrame_command (addr code : Byte) (payload : List Byte) :
    CommandFrame addr code payload
      (buildFrame addr (bodyOf (code :: payload)) (payload.length + 1)) where
  marker := buildFrame_marker _ _ _
  addr := buildFrame_addr _ _ _
  code := by
    have := buildFrame_body addr (bodyOf (code :: payload)) (payload.length + 1) 0 (by omega)
    simpa [bodyOf_getElem] using this
  payload i hi := by
    have := buildFrame_body addr (bodyOf (code :: payload)) (payload.length + 1) (i + 1) (by omega)
    simp only [show 2 + (i + 1) = 3 + i by omega] at this
    rw [this, bodyOf_getElem _ _ (by omega)]
    split
    · simp
    · have : payload.length ≤ i := by omega
      simp [this]
  checksum := buildFrame_checks _ _ _

end Sys2Proof.Machine
end

