-- ==== Sys2Proof/Laws/Numbers.lean ====
section
/-! SUPPORT. Little-endian numbers, rounding and scaling, as the sums and bounds the statements use. -/

namespace Sys2Proof.Machine

/-! ## Little-endian bytes (R11) -/

@[simp] theorem leBytes_length (w : Nat) (x : Int) : (leBytes w x).length = w := by simp [leBytes]

theorem leBytes_getElem (w : Nat) (x : Int) (i : Nat) (h : i < (leBytes w x).length) :
    ((leBytes w x)[i]).toNat = (x % 256 ^ w).toNat / 256 ^ i % 256 := by
  have hp : 2 ^ (8 * i) = 256 ^ i := by rw [Nat.pow_mul]
  simp [leBytes, Nat.shiftRight_eq_div_pow, hp]

/-- `le_value` as the spec's sum. -/
theorem leValue_eq_sum (bytes : List Byte) :
    leValue bytes = ∑ i ∈ Finset.range bytes.length, (bytes.getD i 0).toNat * 256 ^ i := by
  induction bytes with
  | nil => simp [leValue]
  | cons b rest ih =>
    rw [List.length_cons, Finset.sum_range_succ', leValue, ih, Finset.mul_sum, Nat.add_comm]
    congr 1
    · exact Finset.sum_congr rfl fun i _ => by simp [Nat.pow_succ]; ring
    · simp

/-- The digits of a number in base 256 give it back. -/
theorem leValue_digits (w x : Nat) :
    leValue ((List.range w).map fun i => BitVec.ofNat 8 (x >>> (8 * i))) = x % 256 ^ w := by
  induction w generalizing x with
  | zero => simp [leValue, Nat.mod_one]
  | succ w ih =>
    have hs (i : Nat) : x >>> (8 * (i + 1)) = (x / 256) >>> (8 * i) := by
      rw [show 8 * (i + 1) = 8 + 8 * i by omega, Nat.shiftRight_add, Nat.shiftRight_eq_div_pow x 8]
    rw [List.range_succ_eq_map, List.map_cons, List.map_map, leValue]
    simp only [Function.comp_def, Nat.succ_eq_add_one, hs, ih]
    rw [Nat.pow_succ', Nat.mod_mul]
    simp

/-- Writing a number and reading it back keeps it modulo the width (R11, R63). -/
theorem leValue_leBytes (w : Nat) (x : Int) : leValue (leBytes w x) = (x % 256 ^ w).toNat := by
  have h0 : (0 : Int) < 256 ^ w := by positivity
  have h1 := Int.emod_lt_of_pos x h0
  have h2 := Int.emod_nonneg x h0.ne'
  rw [leBytes, leValue_digits, Nat.mod_eq_of_lt]
  zify
  rwa [Int.toNat_of_nonneg h2]

/-- A field within the frame has its width in bytes. -/
theorem fieldBytes_length (f : Frame) (off w : Nat) (h : off + w ≤ 26) :
    (fieldBytes f off w).length = w := by
  simp only [fieldBytes, List.length_take, List.length_drop, Vector.length_toList]
  omega

theorem fieldBytes_getD (f : Frame) (off w i : Nat) (h : i < w) :
    (fieldBytes f off w).getD i 0 = f.toList.getD (off + i) 0 := by
  simp [fieldBytes, List.getD_eq_getElem?_getD, h]

/-- A field's value as a sum over the frame. -/
theorem leValue_fieldBytes (f : Frame) (off w : Nat) (h : off + w ≤ 26) :
    leValue (fieldBytes f off w) =
      ∑ i ∈ Finset.range w, (f.toList.getD (off + i) 0).toNat * 256 ^ i := by
  rw [leValue_eq_sum, fieldBytes_length f off w h]
  exact Finset.sum_congr rfl fun i hi => by rw [fieldBytes_getD f off w i (Finset.mem_range.mp hi)]

/-! ## Rounding (R14) -/

/-- The rounded quotient is at most half the denominator away from the quotient; at exactly half, the
tie rule has its way. -/
theorem roundRatio_spec (tie : TieRule) (n : Int) (d : Nat) (hd : 0 < d) :
    2 * |roundRatio tie n d * d - n| ≤ d ∧
      (2 * |roundRatio tie n d * d - n| = d →
        match tie with
        | .halfEven => Even (roundRatio tie n d)
        | .halfAway => |n| < |roundRatio tie n d * d|) := by
  have hd' : (0 : Int) < d := by exact_mod_cast hd
  have hdm := Int.mul_ediv_add_emod n d
  have h0 := Int.emod_nonneg n hd'.ne'
  have h1 := Int.emod_lt_of_pos n hd'
  have e0 : n / d * d - n = -(n % d) := by linarith [mul_comm (d : Int) (n / d)]
  have e1 : (n / d + 1) * d - n = d - n % d := by linarith [mul_comm (d : Int) (n / d)]
  have a0 : |n / d * d - n| = n % d := by rw [e0, abs_neg, abs_of_nonneg h0]
  have a1 : |(n / d + 1) * d - n| = d - n % d := by rw [e1, abs_of_nonneg (by omega)]
  unfold roundRatio
  simp only []
  split
  · rw [a0]; exact ⟨by omega, fun h => by omega⟩
  · split
    · rw [a1]; exact ⟨by omega, fun h => by omega⟩
    · have ht : 2 * (n % d) = d := by omega
      cases tie with
      | halfEven =>
        simp only
        split
        · rename_i h
          exact ⟨by rw [a0]; omega, fun _ => Int.even_iff.mpr h⟩
        · exact ⟨by rw [a1]; omega, fun _ => Int.even_iff.mpr (by omega)⟩
      | halfAway =>
        simp only
        split
        · rename_i h
          refine ⟨by rw [a1]; omega, fun _ => ?_⟩
          rw [abs_of_nonneg h, abs_of_nonneg (by omega)]; omega
        · refine ⟨by rw [a0]; omega, fun _ => ?_⟩
          rw [abs_of_neg (by omega), abs_of_neg (by omega)]; omega

/-- Scaling numerator and denominator alike does not change the rounding. -/
theorem roundRatio_scale (tie : TieRule) (n : Int) (d k : Nat) (hk : 0 < k) :
    roundRatio tie (n * k) (d * k) = roundRatio tie n d := by
  have hk' : (0 : Int) < k := by exact_mod_cast hk
  have hq : n * k / ((d * k : Nat) : Int) = n / d := by
    push_cast; exact Int.mul_ediv_mul_of_pos_left _ _ hk'
  have hm : n * k % ((d * k : Nat) : Int) = n % d * k := by
    push_cast; rw [mul_comm n, mul_comm (d : Int), Int.mul_emod_mul_of_pos _ _ hk', mul_comm]
  have hlt : 2 * (n % d * k) < ((d * k : Nat) : Int) ↔ 2 * (n % d) < d := by
    push_cast
    rw [show 2 * (n % d * k) = 2 * (n % d) * k by ring]
    exact Int.mul_lt_mul_right hk'
  have hgt : ((d * k : Nat) : Int) < 2 * (n % d * k) ↔ (d : Int) < 2 * (n % d) := by
    push_cast
    rw [show 2 * (n % d * k) = 2 * (n % d) * k by ring]
    exact Int.mul_lt_mul_right hk'
  have hn : 0 ≤ n * k ↔ 0 ≤ n := by
    constructor
    · intro h; by_contra hc; nlinarith
    · intro h; positivity
  simp only [roundRatio, hq, hm, hlt, hgt, hn]

/-- The wire integer is `round_T(v * 1000)` (R77). -/
theorem rawOf_eq (tie : TieRule) (v : Rat) : rawOf tie v = roundTie tie (v * 1000) := by
  have hx : v * 1000 = Rat.divInt (v.num * 1000) v.den := by
    rw [Rat.divInt_eq_div]; push_cast
    rw [mul_div_right_comm, Rat.num_div_den]
  obtain ⟨c, hn, hd⟩ := Rat.exists_eq_mul_div_num_and_eq_mul_div_den (v.num * 1000)
    (show (v.den : Int) ≠ 0 by exact_mod_cast v.den_nz)
  have hv : ((v.num * 1000 : Int) : Rat) / ((v.den : Int) : Rat) = v * 1000 := by
    rw [hx, Rat.divInt_eq_div]
  rw [hv] at hn hd
  have hc : 0 < c := by
    have h1 : (0 : Int) < v.den := by exact_mod_cast v.den_pos
    have h2 : (0 : Int) < (v * 1000).den := by exact_mod_cast (v * 1000).den_pos
    rw [hd] at h1
    exact pos_of_mul_pos_left h1 h2.le
  lift c to Nat using hc.le
  have hd' : v.den = (v * 1000).den * c := by rw [mul_comm]; exact_mod_cast hd
  have hn' : v.num * (1000 : Nat) = (v * 1000).num * c := by rw [mul_comm _ (c : Int)]; exact hn
  rw [rawOf, roundTie, scale, hn', hd', roundRatio_scale _ _ _ _ (by exact_mod_cast hc)]

/-- Scaled is raw over 1000 (R109). -/
theorem scaledOf_eq (raw : Nat) : scaledOf raw = (raw : Rat) / 1000 := by
  rw [scaledOf, scale, Rat.mkRat_eq_div]; norm_num

end Sys2Proof.Machine
end

