-- ==== Sys2Proof/Laws/State.lean ====
section
/-! SUPPORT. What each update of the state leaves in each field: one lemma per field per update, so
that no proof unfolds a record update. -/

namespace Sys2Proof.Machine

variable (s : State) (r : Regs) (e : Outputs) (bytes p : List Byte) (b code : Byte)
variable (rest : List (List PortInput)) (m : BitVec 16)

/-! ## `drive` -/

@[simp] theorem drive_regs : (drive e s).regs = s.regs := rfl
@[simp] theorem drive_params : (drive e s).params = s.params := rfl
@[simp] theorem drive_out : (drive e s).out = e := rfl
@[simp] theorem drive_results : (drive e s).results = s.results ++ [e] := rfl
@[simp] theorem drive_rxChannel : (drive e s).rxChannel = s.rxChannel := rfl
@[simp] theorem drive_txChannel : (drive e s).txChannel = s.txChannel := rfl
@[simp] theorem drive_inputs : (drive e s).inputs = s.inputs := rfl

/-! ## `driveNothing` -/

@[simp] theorem driveNothing_regs : (driveNothing s).regs = s.regs := rfl
@[simp] theorem driveNothing_params : (driveNothing s).params = s.params := rfl
@[simp] theorem driveNothing_out : (driveNothing s).out = .undriven := rfl
@[simp] theorem driveNothing_results : (driveNothing s).results = s.results ++ [.undriven] := rfl
@[simp] theorem driveNothing_rxChannel : (driveNothing s).rxChannel = s.rxChannel := rfl
@[simp] theorem driveNothing_txChannel : (driveNothing s).txChannel = s.txChannel := rfl
@[simp] theorem driveNothing_inputs : (driveNothing s).inputs = s.inputs := rfl

/-! ## `deliver` -/

@[simp] theorem deliver_regs : (deliver bytes s).regs = s.regs := rfl
@[simp] theorem deliver_params : (deliver bytes s).params = s.params := rfl
@[simp] theorem deliver_out : (deliver bytes s).out = s.out := rfl
@[simp] theorem deliver_results : (deliver bytes s).results = s.results := rfl
@[simp] theorem deliver_rxChannel : (deliver bytes s).rxChannel = s.rxChannel ++ bytes := rfl
@[simp] theorem deliver_txChannel : (deliver bytes s).txChannel = s.txChannel := rfl
@[simp] theorem deliver_inputs : (deliver bytes s).inputs = s.inputs := rfl

/-! ## `txPush` -/

@[simp] theorem txPush_regs : (txPush b s).regs = s.regs := rfl
@[simp] theorem txPush_params : (txPush b s).params = s.params := rfl
@[simp] theorem txPush_out : (txPush b s).out = s.out := rfl
@[simp] theorem txPush_results : (txPush b s).results = s.results := rfl
@[simp] theorem txPush_rxChannel : (txPush b s).rxChannel = s.rxChannel := rfl
@[simp] theorem txPush_txChannel : (txPush b s).txChannel = s.txChannel ++ [b] := rfl
@[simp] theorem txPush_inputs : (txPush b s).inputs = s.inputs := rfl

/-! ## `undrive` -/

@[simp] theorem undrive_regs : (undrive s).regs = s.regs := rfl
@[simp] theorem undrive_params : (undrive s).params = s.params := rfl
@[simp] theorem undrive_out : (undrive s).out = .undriven := rfl
@[simp] theorem undrive_results : (undrive s).results = s.results := rfl
@[simp] theorem undrive_rxChannel : (undrive s).rxChannel = s.rxChannel := rfl
@[simp] theorem undrive_txChannel : (undrive s).txChannel = s.txChannel := rfl
@[simp] theorem undrive_inputs : (undrive s).inputs = s.inputs := rfl

/-! ## `applyReset` -/

@[simp] theorem applyReset_regs : (applyReset s).regs = .reset := rfl
@[simp] theorem applyReset_params : (applyReset s).params = s.params := rfl
@[simp] theorem applyReset_out : (applyReset s).out = .undriven := rfl
@[simp] theorem applyReset_results : (applyReset s).results = s.results := rfl
@[simp] theorem applyReset_rxChannel : (applyReset s).rxChannel = s.rxChannel := rfl
@[simp] theorem applyReset_txChannel : (applyReset s).txChannel = s.txChannel := rfl
@[simp] theorem applyReset_inputs : (applyReset s).inputs = s.inputs := rfl

/-! ## `beginStep` -/

@[simp] theorem beginStep_regs : (beginStep rest s).regs = s.regs := rfl
@[simp] theorem beginStep_params : (beginStep rest s).params = s.params := rfl
@[simp] theorem beginStep_out : (beginStep rest s).out = .undriven := rfl
@[simp] theorem beginStep_results : (beginStep rest s).results = s.results := rfl
@[simp] theorem beginStep_rxChannel : (beginStep rest s).rxChannel = s.rxChannel := rfl
@[simp] theorem beginStep_txChannel : (beginStep rest s).txChannel = s.txChannel := rfl
@[simp] theorem beginStep_inputs : (beginStep rest s).inputs = rest := rfl

/-! ## `buildCommand` -/

@[simp] theorem buildCommand_regs : (buildCommand code p s).regs = s.regs := drive_regs _ _
@[simp] theorem buildCommand_params : (buildCommand code p s).params = s.params := drive_params _ _
@[simp] theorem buildCommand_out :
    (buildCommand code p s).out = buildResult s.regs.addr (bodyOf (code :: p)) (p.length + 1) :=
  drive_out _ _
@[simp] theorem buildCommand_results :
    (buildCommand code p s).results =
      s.results ++ [buildResult s.regs.addr (bodyOf (code :: p)) (p.length + 1)] :=
  drive_results _ _
@[simp] theorem buildCommand_rxChannel : (buildCommand code p s).rxChannel = s.rxChannel :=
  drive_rxChannel _ _
@[simp] theorem buildCommand_txChannel : (buildCommand code p s).txChannel = s.txChannel :=
  drive_txChannel _ _
@[simp] theorem buildCommand_inputs : (buildCommand code p s).inputs = s.inputs := drive_inputs _ _

/-! ## `startScan` -/

@[simp] theorem startScan_addr : (startScan m r).addr = r.addr := rfl
@[simp] theorem startScan_scPhase : (startScan m r).scPhase = .fill := rfl
@[simp] theorem startScan_scWin : (startScan m r).scWin = zeroFrame := rfl
@[simp] theorem startScan_scFill : (startScan m r).scFill = 0 := rfl
@[simp] theorem startScan_scExtra : (startScan m r).scExtra = 0 := rfl
@[simp] theorem startScan_scMax : (startScan m r).scMax = m := rfl
@[simp] theorem startScan_scCount : (startScan m r).scCount = 0 := rfl
@[simp] theorem startScan_scFrame : (startScan m r).scFrame = zeroFrame := rfl
@[simp] theorem startScan_scSync : (startScan m r).scSync = false := rfl
@[simp] theorem startScan_scTmo : (startScan m r).scTmo = false := rfl
@[simp] theorem startScan_txBuf : (startScan m r).txBuf = r.txBuf := rfl
@[simp] theorem startScan_txIdx : (startScan m r).txIdx = r.txIdx := rfl
@[simp] theorem startScan_txBusy : (startScan m r).txBusy = r.txBusy := rfl

/-! ## `finishSync` -/

@[simp] theorem finishSync_addr : (finishSync r).addr = r.addr := rfl
@[simp] theorem finishSync_scPhase : (finishSync r).scPhase = .done := rfl
@[simp] theorem finishSync_scWin : (finishSync r).scWin = r.scWin := rfl
@[simp] theorem finishSync_scFill : (finishSync r).scFill = r.scFill := rfl
@[simp] theorem finishSync_scExtra : (finishSync r).scExtra = r.scExtra := rfl
@[simp] theorem finishSync_scMax : (finishSync r).scMax = r.scMax := rfl
@[simp] theorem finishSync_scCount : (finishSync r).scCount = r.scCount := rfl
@[simp] theorem finishSync_scFrame : (finishSync r).scFrame = r.scWin := rfl
@[simp] theorem finishSync_scSync : (finishSync r).scSync = true := rfl
@[simp] theorem finishSync_scTmo : (finishSync r).scTmo = r.scTmo := rfl
@[simp] theorem finishSync_txBuf : (finishSync r).txBuf = r.txBuf := rfl
@[simp] theorem finishSync_txIdx : (finishSync r).txIdx = r.txIdx := rfl
@[simp] theorem finishSync_txBusy : (finishSync r).txBusy = r.txBusy := rfl

/-! ## `finishFail` -/

@[simp] theorem finishFail_addr : (finishFail r).addr = r.addr := rfl
@[simp] theorem finishFail_scPhase : (finishFail r).scPhase = .done := rfl
@[simp] theorem finishFail_scWin : (finishFail r).scWin = r.scWin := rfl
@[simp] theorem finishFail_scFill : (finishFail r).scFill = r.scFill := rfl
@[simp] theorem finishFail_scExtra : (finishFail r).scExtra = r.scExtra := rfl
@[simp] theorem finishFail_scMax : (finishFail r).scMax = r.scMax := rfl
@[simp] theorem finishFail_scCount : (finishFail r).scCount = r.scCount := rfl
@[simp] theorem finishFail_scFrame : (finishFail r).scFrame = zeroFrame := rfl
@[simp] theorem finishFail_scSync : (finishFail r).scSync = false := rfl
@[simp] theorem finishFail_scTmo : (finishFail r).scTmo = r.scTmo := rfl
@[simp] theorem finishFail_txBuf : (finishFail r).txBuf = r.txBuf := rfl
@[simp] theorem finishFail_txIdx : (finishFail r).txIdx = r.txIdx := rfl
@[simp] theorem finishFail_txBusy : (finishFail r).txBusy = r.txBusy := rfl

/-! ## `advanceTx` -/

@[simp] theorem advanceTx_addr : (advanceTx r).addr = r.addr := rfl
@[simp] theorem advanceTx_scPhase : (advanceTx r).scPhase = r.scPhase := rfl
@[simp] theorem advanceTx_scWin : (advanceTx r).scWin = r.scWin := rfl
@[simp] theorem advanceTx_scFill : (advanceTx r).scFill = r.scFill := rfl
@[simp] theorem advanceTx_scExtra : (advanceTx r).scExtra = r.scExtra := rfl
@[simp] theorem advanceTx_scMax : (advanceTx r).scMax = r.scMax := rfl
@[simp] theorem advanceTx_scCount : (advanceTx r).scCount = r.scCount := rfl
@[simp] theorem advanceTx_scFrame : (advanceTx r).scFrame = r.scFrame := rfl
@[simp] theorem advanceTx_scSync : (advanceTx r).scSync = r.scSync := rfl
@[simp] theorem advanceTx_scTmo : (advanceTx r).scTmo = r.scTmo := rfl
@[simp] theorem advanceTx_txBuf : (advanceTx r).txBuf = r.txBuf := rfl
@[simp] theorem advanceTx_txIdx : (advanceTx r).txIdx = r.txIdx + 1 := rfl
@[simp] theorem advanceTx_txBusy :
    (advanceTx r).txBusy = if r.txIdx + 1 = 26 then false else r.txBusy := rfl

end Sys2Proof.Machine
end

