-- ==== Sys2Proof/Laws/Ops.lean ====
section
/-! SUPPORT. What each shared operation does, said once: driving, the receive channel, the commands, and
which registers an instruction can change. -/

namespace Sys2Proof.Machine

/-! ## Driving -/

theorem operates_drive (e : Outputs) (s : State) : Operates s s.regs (drive e s) := by
  constructor <;> rfl

theorem operates_driveNothing (r : Regs) (s : State) :
    Operates s r (driveNothing { s with regs := r }) := by
  constructor <;> rfl

/-- Raising an error drives `out.err` alone, saves nothing and moves no control (R12, R240). -/
theorem raiseErr_next (e : ErrCode) (s : State) :
    ∃ t, raiseErr e s = .next t ∧ Operates s s.regs t ∧ t.out = { Outputs.undriven with err := e } :=
  ⟨_, rfl, operates_drive _ _, rfl⟩

/-! ## The receive channel -/

/-- A pull takes the oldest byte, or the one delivered in this handshake. -/
theorem rxPull_eq {b : Byte} {rest : List Byte} {s : State}
    (h : s.rxChannel = b :: rest ∨ s.rxChannel = [] ∧ rest = []) :
    rxPull b s = some { s with rxChannel := rest } := by
  rcases h with h | ⟨h, rfl⟩
  · simp [rxPull, h]
  · rw [rxPull, h]; simp [← h]

/-- No other byte can be pulled. -/
theorem rxPull_other {b c : Byte} {rest : List Byte} {s : State} (h : s.rxChannel = c :: rest)
    (hc : c ≠ b) : rxPull b s = none := by
  simp [rxPull, h, hc]

/-- A pull changes the receive channel alone. -/
theorem rxPull_keeps {b : Byte} {s t : State} (h : rxPull b s = some t) :
    t.regs = s.regs ∧ ReceivesOnly s t := by
  unfold rxPull at h
  split at h
  · cases h; exact ⟨rfl, rfl, rfl, rfl, rfl, rfl⟩
  · split at h
    · cases h; exact ⟨rfl, rfl, rfl, rfl, rfl, rfl⟩
    · cases h

theorem execRxByteFill_next {b : Byte} {rest : List Byte} {s : State} (hp : s.regs.scPhase = .fill)
    (h : s.rxChannel = b :: rest ∨ s.rxChannel = [] ∧ rest = []) :
    execRxByteFill b s = .next { s with rxChannel := rest, regs := fillByte b s.regs } := by
  simp [execRxByteFill, hp, rxPull_eq h]

theorem execRxByteHunt_next {b : Byte} {rest : List Byte} {s : State} (hp : s.regs.scPhase = .hunt)
    (h : s.rxChannel = b :: rest ∨ s.rxChannel = [] ∧ rest = []) :
    execRxByteHunt b s = .next { s with rxChannel := rest, regs := huntByte b s.regs } := by
  simp [execRxByteHunt, hp, rxPull_eq h]

/-- An event of the receive port leaves everything but the registers and the receive channel. -/
theorem receivesOnly_take (rest : List Byte) (r : Regs) (s : State) :
    ReceivesOnly s { s with rxChannel := rest, regs := r } := ⟨rfl, rfl, rfl, rfl, rfl⟩

theorem takes_of_next {x : Answer} {rest : List Byte} {r : Regs} {s : State}
    (h : x = .next { s with rxChannel := rest, regs := r }) :
    ∃ t, x = .next t ∧ t.rxChannel = rest ∧ t.regs = r ∧ ReceivesOnly s t :=
  ⟨_, h, rfl, rfl, receivesOnly_take _ _ _⟩

/-- RX_BYTE in phase FILL, with the next state's fields as equations. -/
theorem execRxByteFill_takes {b : Byte} {rest : List Byte} {s : State} (hp : s.regs.scPhase = .fill)
    (h : s.rxChannel = b :: rest ∨ s.rxChannel = [] ∧ rest = []) :
    ∃ t, execRxByteFill b s = .next t ∧ t.rxChannel = rest ∧ t.regs = fillByte b s.regs ∧
      ReceivesOnly s t :=
  takes_of_next (execRxByteFill_next hp h)

/-- RX_BYTE in phase HUNT, with the next state's fields as equations. -/
theorem execRxByteHunt_takes {b : Byte} {rest : List Byte} {s : State} (hp : s.regs.scPhase = .hunt)
    (h : s.rxChannel = b :: rest ∨ s.rxChannel = [] ∧ rest = []) :
    ∃ t, execRxByteHunt b s = .next t ∧ t.rxChannel = rest ∧ t.regs = huntByte b s.regs ∧
      ReceivesOnly s t :=
  takes_of_next (execRxByteHunt_next hp h)

theorem scanBusy_iff (r : Regs) : scanBusy r = true ↔ r.scPhase = .fill ∨ r.scPhase = .hunt := by
  simp [scanBusy]

theorem scanBusy_false {r : Regs} (h : r.scPhase = .idle ∨ r.scPhase = .done) : scanBusy r = false := by
  rcases h with h | h <;> simp [scanBusy, h]

theorem execScanStart_idle {s : State} (m : BitVec 16) (h : scanBusy s.regs = false) :
    execScanStart m s = .next (driveNothing { s with regs := startScan m s.regs }) := by
  rw [execScanStart, h]; rfl

theorem execScanStart_busy {s : State} (m : BitVec 16) (h : scanBusy s.regs = true) :
    execScanStart m s = raiseErr .busy s := by
  rw [execScanStart, if_pos h]

theorem execRxTimeout_busy {s : State} (h : scanBusy s.regs = true) :
    execRxTimeout s = .next { s with
      regs := { s.regs with scFrame := zeroFrame, scSync := false, scTmo := true, scPhase := .done } } := by
  rw [execRxTimeout, if_pos h]

theorem execRxTimeout_ignored {s : State} (h : scanBusy s.regs = false) :
    execRxTimeout s = .next s := by
  rw [execRxTimeout, h]; rfl

/-! ## The transmit port -/

theorem execSend_idle {s : State} (f : Frame) (h : s.regs.txBusy = false) :
    execSend f s =
      .next (driveNothing { s with regs := { s.regs with txBuf := f, txIdx := 0, txBusy := true } }) := by
  rw [execSend, h]; rfl

theorem execSend_busy {s : State} (f : Frame) (h : s.regs.txBusy = true) :
    execSend f s = raiseErr .busy s := by
  rw [execSend, if_pos h]

theorem execTxByte_next {s : State} (h : s.regs.txIdx < 26) (hb : s.regs.txBusy = true) :
    execTxByte s = .next (txPush s.regs.txBuf[s.regs.txIdx] { s with regs := advanceTx s.regs }) := by
  have hd : txData s.regs = some s.regs.txBuf[s.regs.txIdx] := by simp [txData, h]
  rw [execTxByte, if_pos hb, hd]

theorem execTxByte_idle {s : State} (h : s.regs.txBusy = false) : execTxByte s = .next s := by
  rw [execTxByte, h]; rfl

/-! ## The commands -/

theorem operates_buildCommand (code : Byte) (p : List Byte) (s : State) :
    Operates s s.regs (buildCommand code p s) := operates_drive _ _

/-- What a command's BUILD drives. -/
theorem buildCommand_frame (code : Byte) (p : List Byte) (s : State) :
    (buildCommand code p s).out =
        { Outputs.undriven with frame := (buildCommand code p s).out.frame } ∧
      CommandFrame s.regs.addr code p (buildCommand code p s).out.frame := by
  simp only [buildCommand_out, buildResult]
  exact ⟨trivial, buildFrame_command _ _ _⟩

theorem rawCommand_next {code : Byte} {p : List Byte} {s : State} (h : p.length ≤ 22) :
    rawCommand code p s = .next (buildCommand code p s) := by
  simp [rawCommand, h]

/-- What ENCNUM drives at a legal width, in the terms of R106. -/
theorem encnumDriven_spec (raw : Int) (w : Nat) :
    ((encnumDriven raw w).raw : Int) = raw % 256 ^ w ∧ (encnumDriven raw w).bytes.length = w ∧
      (∀ i (h : i < (encnumDriven raw w).bytes.length),
        ((encnumDriven raw w).bytes[i]).toNat = (encnumDriven raw w).raw / 256 ^ i % 256) ∧
      ((encnumDriven raw w).ok = true ↔ 0 ≤ raw ∧ raw < 256 ^ w) ∧
      (encnumDriven raw w).err = (if (encnumDriven raw w).ok then .none else .range) := by
  refine ⟨?_, leBytes_length _ _, fun i h => leBytes_getElem _ _ _ h, by simp [encnumDriven], ?_⟩
  · exact Int.toNat_of_nonneg (Int.emod_nonneg _ (by positivity))
  · simp [encnumDriven]

/-! ## What an instruction can do to the registers -/

/-- The ways in which one instruction or event changes the registers (R20's "written by"). -/
inductive RegsStep : Regs → Regs → Prop where
  | keep (r : Regs) : RegsStep r r
  | setAddr (r : Regs) (a : Byte) : RegsStep r { r with addr := a }
  | startScan (r : Regs) (m : BitVec 16) (idle : scanBusy r = false) : RegsStep r (startScan m r)
  | fill (r : Regs) (b : Byte) (phase : r.scPhase = .fill) : RegsStep r (fillByte b r)
  | hunt (r : Regs) (b : Byte) (phase : r.scPhase = .hunt) : RegsStep r (huntByte b r)
  | timeout (r : Regs) (busy : scanBusy r = true) :
      RegsStep r { r with scFrame := zeroFrame, scSync := false, scTmo := true, scPhase := .done }
  | send (r : Regs) (f : Frame) (idle : r.txBusy = false) :
      RegsStep r { r with txBuf := f, txIdx := 0, txBusy := true }
  | tx (r : Regs) (busy : r.txBusy = true) (left : r.txIdx < 26) : RegsStep r (advanceTx r)

/-- `t` is reached from `s` by one of those ways, with the parameters and the schedule as before. -/
structure Within (s t : State) : Prop where
  regs : RegsStep s.regs t.regs
  params : t.params = s.params
  inputs : t.inputs = s.inputs

theorem within_self (s : State) : Within s s := ⟨.keep _, rfl, rfl⟩

theorem within_drive (e : Outputs) (s : State) : Within s (drive e s) := ⟨.keep _, rfl, rfl⟩

theorem within_regs {s s' : State} {r : Regs} (h : RegsStep s.regs r) (hp : s'.params = s.params)
    (hi : s'.inputs = s.inputs) : Within s { s' with regs := r } := ⟨h, hp, hi⟩

theorem within_driven {s : State} {r : Regs} (e : Outputs) (h : RegsStep s.regs r) :
    Within s (drive e { s with regs := r }) := ⟨h, rfl, rfl⟩

theorem Within.trans_keep {s t u : State} (h : Within s t) (hr : u.regs = t.regs)
    (hp : u.params = t.params) (hi : u.inputs = t.inputs) : Within s u :=
  ⟨by rw [hr]; exact h.regs, by rw [hp]; exact h.params, by rw [hi]; exact h.inputs⟩

/-- An answer that is some state within reach. -/
theorem within_of_next {s t u : State} (h : (Host.Outcome.next u : Answer) = .next t)
    (hu : Within s u) : Within s t := by
  injection h with h; exact h ▸ hu

theorem execRxByteFill_cases {b : Byte} {s t : State} (h : execRxByteFill b s = .next t) :
    Within s t := by
  unfold execRxByteFill at h
  split at h
  · rename_i hp
    split at h
    · rename_i s' hs
      have := (rxPull_keeps hs).2
      exact within_of_next h (within_regs (.fill _ _ hp) this.params this.inputs)
    · exact within_of_next h (within_self s)
  · exact within_of_next h (within_self s)

theorem execRxByteHunt_cases {b : Byte} {s t : State} (h : execRxByteHunt b s = .next t) :
    Within s t := by
  unfold execRxByteHunt at h
  split at h
  · rename_i hp
    split at h
    · rename_i s' hs
      have := (rxPull_keeps hs).2
      exact within_of_next h (within_regs (.hunt _ _ hp) this.params this.inputs)
    · exact within_of_next h (within_self s)
  · exact within_of_next h (within_self s)

theorem rxHandshake_cases {s t : State} (h : rxHandshake s = .next t) :
    Within s t := by
  unfold rxHandshake at h
  split at h
  · exact within_of_next h (within_self s)
  · split at h
    · exact execRxByteFill_cases h
    · exact execRxByteHunt_cases h
    · exact within_of_next h (within_self s)
    · exact within_of_next h (within_self s)

theorem execRxTimeout_cases {s t : State} (h : execRxTimeout s = .next t) :
    Within s t := by
  unfold execRxTimeout at h
  split at h
  · rename_i hb; exact within_of_next h (within_regs (.timeout _ hb) rfl rfl)
  · exact within_of_next h (within_self s)

theorem execTxByte_cases {s t : State} (h : execTxByte s = .next t) :
    Within s t := by
  unfold execTxByte at h
  split at h
  · rename_i hb
    split at h
    · rename_i b hd
      have : s.regs.txIdx < 26 := by
        by_contra hc
        simp [txData, hc] at hd
      exact within_of_next h ((within_regs (.tx _ hb this) rfl rfl).trans_keep rfl rfl rfl)
    · cases h
  · exact within_of_next h (within_self s)

theorem execSend_cases {f : Frame} {s t : State} (h : execSend f s = .next t) :
    Within s t := by
  unfold execSend at h
  split at h
  · exact within_of_next h (within_drive _ _)
  · rename_i hb; exact within_of_next h (within_driven _ (.send _ f (by simpa using hb)))

theorem execScanStart_cases {m : BitVec 16} {s t : State} (h : execScanStart m s = .next t) :
    Within s t := by
  unfold execScanStart at h
  split at h
  · exact within_of_next h (within_drive _ _)
  · rename_i hb; exact within_of_next h (within_driven _ (.startScan _ m (by simpa using hb)))

theorem rawCommand_cases {code : Byte} {p : List Byte} {s t : State}
    (h : rawCommand code p s = .next t) : p.length ≤ 22 ∧ t = buildCommand code p s := by
  unfold rawCommand at h
  split at h
  · rename_i hp; injection h with h; exact ⟨hp, h.symm⟩
  · cases h

theorem rawCommand_keeps {code : Byte} {p : List Byte} {s t : State}
    (h : rawCommand code p s = .next t) :
    Within s t := by
  obtain ⟨-, rfl⟩ := rawCommand_cases h
  exact within_drive _ _

/-- Every instruction changes the registers in one of these ways, and neither the parameters nor the
schedule. -/
theorem exec_cases {i : Instr} {s t : State} (h : exec i s = .next t) :
    Within s t := by
  cases i with
  | send f => exact execSend_cases h
  | scanStart m => exact execScanStart_cases h
  | rxByteFill b => exact execRxByteFill_cases h
  | rxByteHunt b => exact execRxByteHunt_cases h
  | rxTimeout => exact execRxTimeout_cases h
  | txByte => exact execTxByte_cases h
  | startByte =>
    have h' := rxHandshake_cases (s := deliver [marker] s) h
    exact ⟨h'.regs, h'.params, h'.inputs⟩
  | cfgSetAddr a => exact within_of_next h (within_driven _ (.setAddr _ a))
  | build body n =>
    simp only [exec, execBuild] at h
    split at h
    · exact within_of_next h (within_drive _ _)
    · cases h
  | statusDecode f =>
    simp only [exec, execStatusDecode] at h
    split at h
    · exact within_of_next h (within_drive _ _)
    · cases h
  | calMode p => exact rawCommand_keeps h
  | calState p => exact rawCommand_keeps h
  | calReadV p => exact rawCommand_keeps h
  | calSendV p => exact rawCommand_keeps h
  | calReadI p => exact rawCommand_keeps h
  | calSendI p => exact rawCommand_keeps h
  | calSaveData p => exact rawCommand_keeps h
  | calSetInfo p => exact rawCommand_keeps h
  | calReadInfo p => exact rawCommand_keeps h
  | readID p => exact rawCommand_keeps h
  | calReset p => exact rawCommand_keeps h
  | enaLocalKey p => exact rawCommand_keeps h
  | nop => exact within_of_next h (within_drive _ _)
  | checksum f => exact within_of_next h (within_drive _ _)
  | check f => exact within_of_next h (within_drive _ _)
  | encnum v w => exact within_of_next h (within_drive _ _)
  | decnum f off w => exact within_of_next h (within_drive _ _)
  | ackMatch f => exact within_of_next h (within_drive _ _)
  | reservedOpB => exact within_of_next h (within_drive _ _)
  | reservedOpC => exact within_of_next h (within_drive _ _)
  | reservedOpD => exact within_of_next h (within_drive _ _)
  | reservedOpE => exact within_of_next h (within_drive _ _)
  | reservedOpF => exact within_of_next h (within_drive _ _)
  | remoteEnable en => exact within_of_next h (within_drive _ _)
  | outputEnable en => exact within_of_next h (within_drive _ _)
  | setLimitV v =>
    exact within_of_next h (((within_drive _ s).trans_keep (drive_regs _ _) (drive_params _ _)
      (drive_inputs _ _)))
  | setOutputV v =>
    exact within_of_next h (((within_drive _ s).trans_keep (drive_regs _ _) (drive_params _ _)
      (drive_inputs _ _)))
  | setOutputI a =>
    exact within_of_next h (((within_drive _ s).trans_keep (drive_regs _ _) (drive_params _ _)
      (drive_inputs _ _)))
  | setAddress a => exact within_of_next h (within_drive _ _)
  | readConfig => exact within_of_next h (within_drive _ _)
  | returnInfo addr ack rest => exact within_of_next h (within_drive _ _)

end Sys2Proof.Machine
end

