-- ==== Sys2Proof/Laws/PerInstr.lean ====
section
/-! SUPPORT. What is said of each instruction as syntax, one lemma a constructor: the lanes of its
image select it again. The four port events have no image. -/

namespace Sys2Proof.Laws.LaneRoundTrip

/-- Whatever image a well-formed instruction is encoded as decodes to it. -/
def Statement (i : Instr) : Prop :=
  i.wellFormed = true → ∀ img, encode i = .word img → decode img = .ok i

theorem of_lanes {i : Instr} {l : Lanes} (he : encode i = wordOf l)
    (hd : i.wellFormed = true → decodeLanes l = .ok i) : Statement i := by
  intro hw img himg
  obtain rfl : laneBytes l = img := by simpa [he, wordOf] using himg
  rw [decode_laneBytes, hd hw]

theorem of_event {i : Instr} {e : PortEvent} (he : encode i = .event e) : Statement i := by
  intro _ img himg
  simp [he] at himg

theorem readBool_boolByte (en : Bool) : readBool (boolByte en) = .ok en := by
  cases en <;> rfl

theorem bodyOf_take (payload : List Byte) (h : payload.length ≤ 23) :
    (Machine.bodyOf payload).toList.take payload.length = payload := by
  apply List.ext_getElem
  · simp; omega
  · intro n h1 h2
    simp [Machine.bodyOf, List.getD_eq_getElem?_getD, h2]

theorem readPayload_payloadLanes (code : Byte) (payload : List Byte) (h : payloadFits payload = true) :
    readPayload (payloadLanes code payload) = .ok payload := by
  have hp : payload.length ≤ 22 := by simpa [payloadFits] using h
  have hn : payload.length % 256 = payload.length := by omega
  simp [readPayload, payloadLanes, hn, hp, bodyOf_take payload (by omega)]

/-- A command with a raw payload: its code selects the constructor `c`. -/
theorem of_payload {i : Instr} {code : Byte} {payload : List Byte} {c : List Byte → Instr}
    (he : encode i = wordOf (payloadLanes code payload)) (hw : i.wellFormed = payloadFits payload)
    (hd : decodeLanes (payloadLanes code payload) =
      (readPayload (payloadLanes code payload)).map c) (hc : c payload = i) : Statement i := by
  refine of_lanes he fun h => ?_
  rw [hd, readPayload_payloadLanes code payload (hw ▸ h), ← hc]
  rfl

theorem of_bool {i : Instr} {code : Byte} {en : Bool} {c : Bool → Instr}
    (he : encode i = wordOf (boolLanes code en))
    (hd : decodeLanes (boolLanes code en) = (readBool (boolByte en)).map c) (hc : c en = i) :
    Statement i := by
  refine of_lanes he fun _ => ?_
  rw [hd, readBool_boolByte, ← hc]
  rfl

theorem nop : Statement .nop := of_lanes rfl fun _ => rfl
theorem cfgSetAddr (a : Byte) : Statement (.cfgSetAddr a) := of_lanes rfl fun _ => rfl
theorem build (body : Body) (n : Nat) : Statement (.build body n) := by
  refine of_lanes rfl fun h => ?_
  have hn : n ≤ 23 := by simpa [Instr.wellFormed] using h
  have hm : n % 256 = n := by omega
  simp [decodeLanes, Lanes.zero, hm, hn]
theorem checksum (f : Frame) : Statement (.checksum f) := of_lanes rfl fun _ => rfl
theorem check (f : Frame) : Statement (.check f) := of_lanes rfl fun _ => rfl
theorem encnum (v : Rat) (w : BitVec 3) : Statement (.encnum v w) := of_lanes rfl fun _ => rfl
theorem decnum (f : Frame) (off : BitVec 5) (w : BitVec 3) : Statement (.decnum f off w) :=
  of_lanes rfl fun _ => rfl
theorem send (f : Frame) : Statement (.send f) := of_lanes rfl fun _ => rfl
theorem scanStart (m : BitVec 16) : Statement (.scanStart m) := of_lanes rfl fun _ => rfl
theorem ackMatch (f : Frame) : Statement (.ackMatch f) := of_lanes rfl fun _ => rfl
theorem statusDecode (f : Frame) : Statement (.statusDecode f) := of_lanes rfl fun _ => rfl
theorem reservedOpB : Statement .reservedOpB := of_lanes rfl fun _ => rfl
theorem reservedOpC : Statement .reservedOpC := of_lanes rfl fun _ => rfl
theorem reservedOpD : Statement .reservedOpD := of_lanes rfl fun _ => rfl
theorem reservedOpE : Statement .reservedOpE := of_lanes rfl fun _ => rfl
theorem reservedOpF : Statement .reservedOpF := of_lanes rfl fun _ => rfl
theorem rxByteFill (b : Byte) : Statement (.rxByteFill b) := of_event rfl
theorem rxByteHunt (b : Byte) : Statement (.rxByteHunt b) := of_event rfl
theorem rxTimeout : Statement .rxTimeout := of_event rfl
theorem txByte : Statement .txByte := of_event rfl
theorem remoteEnable (en : Bool) : Statement (.remoteEnable en) :=
  of_bool (c := .remoteEnable) rfl rfl rfl
theorem outputEnable (en : Bool) : Statement (.outputEnable en) :=
  of_bool (c := .outputEnable) rfl rfl rfl
theorem setLimitV (v : Rat) : Statement (.setLimitV v) := of_lanes rfl fun _ => rfl
theorem setOutputV (v : Rat) : Statement (.setOutputV v) := of_lanes rfl fun _ => rfl
theorem setOutputI (a : Rat) : Statement (.setOutputI a) := of_lanes rfl fun _ => rfl
theorem setAddress (a : Byte) : Statement (.setAddress a) := of_lanes rfl fun _ => rfl
theorem readConfig : Statement .readConfig := of_lanes rfl fun _ => rfl
theorem calMode (p : List Byte) : Statement (.calMode p) := of_payload (c := .calMode) rfl rfl rfl rfl
theorem calState (p : List Byte) : Statement (.calState p) :=
  of_payload (c := .calState) rfl rfl rfl rfl
theorem calReadV (p : List Byte) : Statement (.calReadV p) :=
  of_payload (c := .calReadV) rfl rfl rfl rfl
theorem calSendV (p : List Byte) : Statement (.calSendV p) :=
  of_payload (c := .calSendV) rfl rfl rfl rfl
theorem calReadI (p : List Byte) : Statement (.calReadI p) :=
  of_payload (c := .calReadI) rfl rfl rfl rfl
theorem calSendI (p : List Byte) : Statement (.calSendI p) :=
  of_payload (c := .calSendI) rfl rfl rfl rfl
theorem calSaveData (p : List Byte) : Statement (.calSaveData p) :=
  of_payload (c := .calSaveData) rfl rfl rfl rfl
theorem calSetInfo (p : List Byte) : Statement (.calSetInfo p) :=
  of_payload (c := .calSetInfo) rfl rfl rfl rfl
theorem calReadInfo (p : List Byte) : Statement (.calReadInfo p) :=
  of_payload (c := .calReadInfo) rfl rfl rfl rfl
theorem readID (p : List Byte) : Statement (.readID p) := of_payload (c := .readID) rfl rfl rfl rfl
theorem calReset (p : List Byte) : Statement (.calReset p) :=
  of_payload (c := .calReset) rfl rfl rfl rfl
theorem enaLocalKey (p : List Byte) : Statement (.enaLocalKey p) :=
  of_payload (c := .enaLocalKey) rfl rfl rfl rfl
theorem returnInfo (addr ack : Byte) (rest : Vector Byte 22) :
    Statement (.returnInfo addr ack rest) := by
  refine of_lanes rfl fun _ => ?_
  have hr : (Vector.ofFn fun i : Fin 22 => (Machine.ackFrame addr ack rest)[i.val + 4]) = rest := by
    apply Vector.ext
    intro i hi
    simp [Machine.ackFrame]
  have h1 : (Machine.ackFrame addr ack rest)[1] = addr := by simp [Machine.ackFrame]
  have h3 : (Machine.ackFrame addr ack rest)[3] = ack := by simp [Machine.ackFrame]
  show Except.ok (Instr.returnInfo _ _ _) = _
  rw [h1, h3, hr]
theorem startByte : Statement .startByte := of_lanes rfl fun _ => rfl

end Sys2Proof.Laws.LaneRoundTrip
end

