-- ==== Sys2Proof/Laws/Scanner.lean ====
section
/-! SUPPORT. What one received byte does to the scanner's registers, and the loop of the functional
scan. -/

namespace Sys2Proof.Machine

/-- What a byte does in either phase, however the scan goes on. -/
structure TakesByte (b : Byte) (r r' : Regs) : Prop where
  keeps : KeepsNonScan r r'
  win : r'.scWin = shiftIn r.scWin b
  count : r'.scCount = r.scCount + 1

/-! ## FILL (R172) -/

/-- The registers just before the test of R172. -/
theorem fillByte_eq (b : Byte) (r : Regs) :
    fillByte b r =
      if r.scFill + 1 = 26 then
        if (shiftIn r.scWin b)[0] = 0xAA then
          { r with scWin := shiftIn r.scWin b, scFill := r.scFill + 1, scCount := r.scCount + 1,
                   scFrame := shiftIn r.scWin b, scSync := true, scPhase := .done }
        else if r.scMax = 0 then
          { r with scWin := shiftIn r.scWin b, scFill := r.scFill + 1, scCount := r.scCount + 1,
                   scFrame := zeroFrame, scSync := false, scPhase := .done }
        else
          { r with scWin := shiftIn r.scWin b, scFill := r.scFill + 1, scCount := r.scCount + 1,
                   scPhase := .hunt }
      else
        { r with scWin := shiftIn r.scWin b, scFill := r.scFill + 1, scCount := r.scCount + 1 } := by
  simp only [fillByte, afterFill, finishSync, finishFail]; rfl

theorem fillByte_takes (b : Byte) (r : Regs) : TakesByte b r (fillByte b r) := by
  rw [fillByte_eq]
  split
  · split
    · exact ⟨⟨rfl, rfl, rfl, rfl, rfl, rfl⟩, rfl, rfl⟩
    · split <;> exact ⟨⟨rfl, rfl, rfl, rfl, rfl, rfl⟩, rfl, rfl⟩
  · exact ⟨⟨rfl, rfl, rfl, rfl, rfl, rfl⟩, rfl, rfl⟩

theorem fillByte_counts (b : Byte) (r : Regs) :
    (fillByte b r).scFill = r.scFill + 1 ∧ (fillByte b r).scExtra = r.scExtra := by
  rw [fillByte_eq]
  split
  · split
    · exact ⟨rfl, rfl⟩
    · split <;> exact ⟨rfl, rfl⟩
  · exact ⟨rfl, rfl⟩

/-! ## HUNT (R173) -/

theorem huntByte_eq (b : Byte) (r : Regs) :
    huntByte b r =
      if (shiftIn r.scWin b)[0] = 0xAA then
        { r with scWin := shiftIn r.scWin b, scExtra := r.scExtra + 1, scCount := r.scCount + 1,
                 scFrame := shiftIn r.scWin b, scSync := true, scPhase := .done }
      else if r.scExtra + 1 = r.scMax.toNat then
        { r with scWin := shiftIn r.scWin b, scExtra := r.scExtra + 1, scCount := r.scCount + 1,
                 scFrame := zeroFrame, scSync := false, scPhase := .done }
      else
        { r with scWin := shiftIn r.scWin b, scExtra := r.scExtra + 1, scCount := r.scCount + 1 } := by
  simp only [huntByte, afterHunt, finishSync, finishFail]; rfl

theorem huntByte_takes (b : Byte) (r : Regs) : TakesByte b r (huntByte b r) := by
  rw [huntByte_eq]
  split
  · exact ⟨⟨rfl, rfl, rfl, rfl, rfl, rfl⟩, rfl, rfl⟩
  · split <;> exact ⟨⟨rfl, rfl, rfl, rfl, rfl, rfl⟩, rfl, rfl⟩

theorem huntByte_counts (b : Byte) (r : Regs) :
    (huntByte b r).scFill = r.scFill ∧ (huntByte b r).scExtra = r.scExtra + 1 := by
  rw [huntByte_eq]
  split
  · exact ⟨rfl, rfl⟩
  · split <;> exact ⟨rfl, rfl⟩

/-! ## The functional scan (R178) -/

/-- Too few bytes for a window. -/
theorem scanFrom_short (tmo : Bool) (left p : Nat) (bytes : List Byte) (h : bytes.length < 26) :
    scanFrom tmo left p bytes =
      ⟨if tmo then .timeout else .stillBusy, zeroFrame.toList, p + bytes.length⟩ := by
  rw [scanFrom.eq_def, if_pos h]

/-- A window that begins with the marker. -/
theorem scanFrom_sync (tmo : Bool) (left p : Nat) (bytes : List Byte) (h : 26 ≤ bytes.length)
    (hm : bytes.head? = some marker) :
    scanFrom tmo left p bytes = ⟨.sync, bytes.take 26, 26 + p⟩ := by
  rw [scanFrom.eq_def, if_neg (by omega), if_pos hm]

/-- A window without the marker, and no position left. -/
theorem scanFrom_fail (tmo : Bool) (p : Nat) (bytes : List Byte) (h : 26 ≤ bytes.length)
    (hm : bytes.head? ≠ some marker) :
    scanFrom tmo 0 p bytes = ⟨.fail, zeroFrame.toList, 26 + p⟩ := by
  rw [scanFrom, if_neg (by omega), if_neg hm]

/-- A window without the marker, and a position left. -/
theorem scanFrom_next (tmo : Bool) (left p : Nat) (bytes : List Byte) (h : 26 ≤ bytes.length)
    (hm : bytes.head? ≠ some marker) :
    scanFrom tmo (left + 1) p bytes = scanFrom tmo left (p + 1) (bytes.drop 1) := by
  rw [scanFrom, if_neg (by omega), if_neg hm]

end Sys2Proof.Machine
end

