-- ==== Sys2Proof/Laws/Step.lean ====
section
/-! SUPPORT. What one step does: an equation for each kind of input, and everything a step can change. -/

namespace Sys2Proof.Machine

theorem afterFirst_eq (others : List PortInput) (cycles : List (List PortInput)) :
    afterFirst others cycles = if others = [] then cycles else others :: cycles := by
  cases others <;> simp [afterFirst]

/-! ## Equations -/

theorem step_idle {s : State} (h : s.inputs = []) : step s = .next (undrive s) := by
  simp [step, h]

theorem step_empty {s : State} {cycles : List (List PortInput)} (h : s.inputs = [] :: cycles) :
    step s = .next (beginStep cycles s) := by simp [step, h]

/-- Reset precedes everything in its cycle (R243 (d)). -/
theorem step_rst {s : State} {cycle : List PortInput} {cycles : List (List PortInput)}
    (h : s.inputs = cycle :: cycles) (hr : .rst ∈ cycle) :
    step s = .next (applyReset (beginStep cycles s)) := by
  cases cycle with
  | nil => simp at hr
  | cons input others => simp [step, h, hr, applyInput]

/-- Any other input is taken as it stands. -/
theorem step_input {s : State} {input : PortInput} {others : List PortInput}
    {cycles : List (List PortInput)} (h : s.inputs = (input :: others) :: cycles)
    (hi : input ≠ .rst) (ho : .rst ∉ others) :
    step s = applyInput input (beginStep (afterFirst others cycles) s) := by
  have : PortInput.rst ∉ input :: others := by simp [ho, Ne.symm hi]
  simp [step, h, this]

theorem runWord_ok {img : List Byte} {i : Instr} (h : decode img = .ok i) (s : State) :
    runWord img s = exec i s := by simp [runWord, h]

theorem runWord_error {img : List Byte} {e : DecodeError} (h : decode img = .error e) (s : State) :
    runWord img s = .refused (.notExpressible e) := by simp [runWord, h]

/-! ## Everything an input can change -/

theorem runEvent_cases {e : PortEvent} {s t : State} (h : runEvent e s = .next t) : Within s t := by
  unfold runEvent at h
  split at h
  · exact exec_cases h
  · exact within_of_next h (within_self s)

theorem runWord_cases {img : List Byte} {s t : State} (h : runWord img s = .next t) : Within s t := by
  unfold runWord at h
  split at h
  · exact exec_cases h
  · cases h

theorem applyInput_cases {input : PortInput} {s t : State} (hi : input ≠ .rst)
    (h : applyInput input s = .next t) : Within s t := by
  cases input with
  | word img => exact runWord_cases h
  | rxValid =>
    simp only [applyInput] at h
    split at h
    · exact within_of_next h (within_self s)
    · exact runEvent_cases h
  | timeout => exact runEvent_cases (e := .timeout) h
  | txReady => exact runEvent_cases (e := .txReady) h
  | arrive bytes => exact within_of_next h ⟨.keep _, rfl, rfl⟩
  | rst => exact absurd rfl hi

/-- A step either resets the registers or changes them as one instruction does; it never changes the
parameters. -/
theorem step_cases {s t : State} (h : step s = .next t) :
    t.params = s.params ∧
      ((∃ cycle cycles, s.inputs = cycle :: cycles ∧ .rst ∈ cycle ∧ t.regs = .reset) ∨
        RegsStep s.regs t.regs) := by
  match hs : s.inputs with
  | [] =>
    rw [step_idle hs] at h
    injection h with h; subst h; exact ⟨rfl, .inr (.keep _)⟩
  | [] :: cycles =>
    rw [step_empty hs] at h
    injection h with h; subst h; exact ⟨rfl, .inr (.keep _)⟩
  | (input :: others) :: cycles =>
    by_cases hr : PortInput.rst ∈ input :: others
    · rw [step_rst hs hr] at h
      injection h with h; subst h
      exact ⟨rfl, .inl ⟨_, _, rfl, hr, rfl⟩⟩
    · simp only [List.mem_cons, not_or] at hr
      rw [step_input hs (Ne.symm hr.1) hr.2] at h
      have := applyInput_cases (Ne.symm hr.1) h
      exact ⟨this.params, .inr this.regs⟩

/-! ## Runs -/

theorem run_zero (s : State) : Host.Core.run Sys2Proof.core 0 s = .next s := rfl

/-- A run takes its first step and goes on. -/
theorem run_next {s t : State} (h : step s = .next t) (k : Nat) :
    Host.Core.run Sys2Proof.core (k + 1) s = Host.Core.run Sys2Proof.core k t := by
  have h' : Host.Core.step Sys2Proof.core s = .next t := h
  simp only [Host.Core.run, h']

theorem coreRun_succ_cases {M : Host.Core} {s t : M.State} {k : Nat}
    (h : M.run (k + 1) s = .next t) : ∃ s', M.step s = .next s' ∧ M.run k s' = .next t := by
  rw [Host.Core.run] at h
  split at h
  · rename_i s' hs; exact ⟨s', hs, h⟩
  · cases h
  · cases h

/-- A run that ends in a state has taken its first step. -/
theorem run_succ_cases {s t : State} {k : Nat}
    (h : Host.Core.run Sys2Proof.core (k + 1) s = .next t) :
    ∃ s', step s = .next s' ∧ Host.Core.run Sys2Proof.core k s' = .next t :=
  coreRun_succ_cases h

/-- What every step keeps, every run keeps. -/
theorem run_keeps {P : State → Prop} (hstep : ∀ s t, P s → step s = .next t → P t) (k : Nat) :
    ∀ s t, P s → Host.Core.run Sys2Proof.core k s = .next t → P t := by
  induction k with
  | zero => intro s t hs h; rw [run_zero] at h; injection h with h; exact h ▸ hs
  | succ k ih =>
    intro s t hs h
    obtain ⟨s', h1, h2⟩ := run_succ_cases h
    exact ih s' t (hstep s s' hs h1) h2

end Sys2Proof.Machine
end

