-- ==== Sys2Proof/Laws/Run.lean ====
section
/-! SUPPORT. When a run has ended, what is observed then, and how the host begins a task. -/

namespace Sys2Proof.Machine

theorem scriptIssued_iff (s : State) : scriptIssued s = true ↔ ∀ cycle ∈ s.inputs, cycle = [] := by
  simp [scriptIssued]

/-- R259's three conditions. -/
theorem runEnded_iff (s : State) :
    runEnded s = true ↔ (∀ cycle ∈ s.inputs, cycle = []) ∧ scanBusy s.regs = false ∧
      s.regs.txBusy = false := by
  simp [runEnded, scriptIssued_iff, and_assoc]

theorem runOutcome_eq_some {s : State} {o : RunOutcome} :
    runOutcome s = some o ↔ runEnded s = true ∧ o = observed s := by
  unfold runOutcome
  split <;> simp_all [@eq_comm _ o]

/-- Taking an input off the schedule changes nothing that R259 observes. -/
@[simp] theorem observed_beginStep (rest : List (List PortInput)) (s : State) :
    observed (beginStep rest s) = observed s := rfl

@[simp] theorem observed_undrive (s : State) : observed (undrive s) = observed s := rfl

@[simp] theorem beginTurn_block (h : HostState) : h.beginTurn.block = undrive h.block := rfl
@[simp] theorem beginTurn_pc (h : HostState) : h.beginTurn.pc = h.pc := rfl
@[simp] theorem beginTurn_todo (h : HostState) : h.beginTurn.todo = h.todo := rfl
@[simp] theorem beginTurn_reports (h : HostState) : h.beginTurn.reports = h.reports := rfl

@[simp] theorem underWay_ready : HostPc.ready.underWay = [] := rfl
@[simp] theorem underWay_waitTx (task : HostTask) (f : Frame) (j : Nat) :
    (HostPc.waitTx task f j).underWay = [task] := rfl
@[simp] theorem underWay_startScan (task : HostTask) (f : Frame) (j : Nat) :
    (HostPc.startScan task f j).underWay = [task] := rfl
@[simp] theorem underWay_waitScan (task : HostTask) (f : Frame) (j : Nat) :
    (HostPc.waitScan task f j).underWay = [task] := rfl

/-- With an attempt to make, a built frame is what the host waits to send. -/
theorem firstAttempt_pos {p : HostParams} (hp : 1 ≤ p.maxAttempts) (h : HostState) (task : HostTask)
    (t : State) :
    h.firstAttempt p task t = { h with block := t, pc := .waitTx task t.out.frame 1 } := by
  simp [HostState.firstAttempt, show p.maxAttempts ≠ 0 by omega]

end Sys2Proof.Machine
end

