-- ==== Sys2Proof/Tests/Slice0.lean ====
section
/-! SUPPORT. Tests by evaluation: ill-formed terms, words written out from the spec's encodings, one or
two vectors of spec/95_test_vectors.md an instruction ("vector X" names its row), and for every
statement with hypotheses a state and operands that meet them all. -/

namespace Sys2Proof.Tests

open Sys2Proof Sys2Proof.Machine

/-! ## Helpers -/

/-- Listed bytes, then zeros, then a checksum at offset 25: the vectors' `AA ... 00×k ck`. -/
def frameOf (bytes : List Byte) (ck : Byte) : Frame :=
  (Vector.ofFn fun i : Fin 26 => bytes.getD i.val 0).set 25 ck

/-- `ack(a, c)` of the vectors, its checksum given. -/
def ackOf (a c ck : Byte) : Frame := frameOf [0xAA, a, 0x12, c] ck

/-- Vector frame S1. -/
def s1 : Frame :=
  frameOf ([0xAA, 0x00, 0x26, 0xD2, 0x04, 0xE0, 0x2E, 0x00, 0x00, 0x91, 0xD0, 0x07, 0x50] ++
    [0x46, 0x00, 0x00, 0xE0, 0x2E]) 0xC0

/-- A transaction's image written out lane by lane, each list padded with zeros to its lanes. -/
def image (sel a n : Byte) (body frame : List Byte) (rest : List Byte) : List Byte :=
  [sel, a, n] ++ (body ++ List.replicate (23 - body.length) 0) ++
    (frame ++ List.replicate (26 - frame.length) 0) ++ rest

/-- The last lanes: `w_in`, `off_in`, `m_in` low byte first, `num_in`. -/
def tail (w off mLow mHigh : Byte) (num : List Byte) : List Byte := [w, off, mLow, mHigh] ++ num

def zeroTail : List Byte := tail 0 0 0 0 [0, 0]

/-- What an answer's next state shows. -/
def next? (a : Answer) : Option State :=
  match a with
  | .next t => some t
  | .fault _ => none
  | .refused _ => none

def stops (a : Answer) : Option (Fault ⊕ Refusal) :=
  match a with
  | .next _ => none
  | .fault f => some (.inl f)
  | .refused r => some (.inr r)

/-- The result port after an instruction in the reset state at an address. -/
def outAt (addr : Byte) (i : Instr) : Option Outputs :=
  (next? (exec i { State.reset with regs := { Regs.reset with addr := addr } })).map State.out

/-- Reset with these registers. -/
def withRegs (r : Regs) : State := { State.reset with regs := r }

/-- Reset with this schedule. -/
def withInputs (inputs : List (List PortInput)) : State := { State.reset with inputs := inputs }

/-- A scan one byte short of its first window, which will begin with `first`. -/
def fillRegs (first : Byte) (m : BitVec 16) : Regs :=
  { Regs.reset with
    scPhase := .fill, scWin := zeroFrame.set 1 first, scFill := 25, scCount := 25, scMax := m }

/-- A scan in HUNT after one extra byte, whose next window will begin with `first`. -/
def huntRegs (first : Byte) (m : BitVec 16) : Regs :=
  { Regs.reset with
    scPhase := .hunt, scWin := zeroFrame.set 1 first, scFill := 26, scExtra := 1, scCount := 27,
    scMax := m }

/-- A frame with 10 bytes transmitted (vector T4). -/
def txRegs : Regs :=
  { Regs.reset with txBuf := frameOf [0xAA, 0x00, 0x23, 0xE0, 0x2E] 0xDB, txIdx := 10, txBusy := true }

/-! ## WellFormed refuses each ill-formed term -/

theorem test_wf_build : (Instr.build (Vector.replicate 23 0) 24).wellFormed = false := by decide

theorem test_wf_payload :
    payloadCommands.all (fun c => (c.1 (List.replicate 23 0)).wellFormed == false) = true := by decide

theorem test_wf_boundary :
    (Instr.build (Vector.replicate 23 0) 23).wellFormed = true ∧
      payloadCommands.all (fun c => (c.1 (List.replicate 22 0)).wellFormed) = true := by decide

/-! ## Decoding: words written out from R75, R79, R80, R81 and the table's match column -/

theorem test_decode_config :
    decode (image 0x00 0 0 [] [] zeroTail) = .ok .nop ∧
    decode (image 0x01 0x05 0 [] [] zeroTail) = .ok (.cfgSetAddr 0x05) ∧
    decode (image 0x02 0 2 [0x12, 0x80] [] zeroTail) =
      .ok (.build (bodyOf [0x12, 0x80]) 2) := by decide

theorem test_decode_checksum :
    decode (image 0x03 0 0 [] [0xAA, 0x01] zeroTail) = .ok (.checksum (frameOf [0xAA, 0x01] 0)) ∧
    decode (image 0x04 0 0 [] [0xAA, 0x02] zeroTail) = .ok (.check (frameOf [0xAA, 0x02] 0)) := by
  decide

theorem test_decode_numbers :
    decode (image 0x05 0 0 [] [] (tail 4 0 0 0 [24, 0])) = .ok (.encnum 12 4) ∧
    decode (image 0x05 0 0 [] [] (tail 2 0 0 0 [1, 1])) = .ok (.encnum (mkRat (-1) 2) 2) ∧
    decode (image 0x06 0 0 [] [0xAA] (tail 2 25 0 0 [0, 0])) =
      .ok (.decnum (frameOf [0xAA] 0) 25 2) := by decide

theorem test_decode_send_scan :
    decode (image 0x07 0 0 [] [0xAA, 0x03] zeroTail) = .ok (.send (frameOf [0xAA, 0x03] 0)) ∧
    decode (image 0x08 0 0 [] [] (tail 0 0 0x34 0x12 [0, 0])) = .ok (.scanStart 0x1234) := by decide

theorem test_decode_validators :
    decode (image 0x09 0 0 [] [0xAA, 0x04] zeroTail) = .ok (.ackMatch (frameOf [0xAA, 0x04] 0)) ∧
    decode (image 0x0A 0 0 [] [0xAA, 0x05] zeroTail) =
      .ok (.statusDecode (frameOf [0xAA, 0x05] 0)) := by decide

theorem test_decode_reserved :
    decode (image 0x0B 0 0 [] [] zeroTail) = .ok .reservedOpB ∧
    decode (image 0x0C 0 0 [] [] zeroTail) = .ok .reservedOpC ∧
    decode (image 0x0D 0 0 [] [] zeroTail) = .ok .reservedOpD ∧
    decode (image 0x0E 0 0 [] [] zeroTail) = .ok .reservedOpE ∧
    decode (image 0x0F 0 0 [] [] zeroTail) = .ok .reservedOpF := by decide

theorem test_decode_events :
    decodeEvent .fill false (.rx 0x5C) = some (.rxByteFill 0x5C) ∧
    decodeEvent .hunt false (.rx 0x5C) = some (.rxByteHunt 0x5C) ∧
    decodeEvent .idle false (.rx 0x5C) = none ∧ decodeEvent .done true (.rx 0x5C) = none ∧
    decodeEvent .idle false .timeout = some .rxTimeout ∧
    decodeEvent .idle true .txReady = some .txByte ∧ decodeEvent .idle false .txReady = none := by
  decide

theorem test_decode_public_commands :
    decode (image 0x20 1 0 [] [] zeroTail) = .ok (.remoteEnable true) ∧
    decode (image 0x21 0 0 [] [] zeroTail) = .ok (.outputEnable false) ∧
    decode (image 0x22 0 0 [] [] (tail 0 0 0 0 [60, 0])) = .ok (.setLimitV 30) ∧
    decode (image 0x23 0 0 [] [] (tail 0 0 0 0 [24, 0])) = .ok (.setOutputV 12) ∧
    decode (image 0x24 0 0 [] [] (tail 0 0 0 0 [6, 1])) = .ok (.setOutputI (mkRat 3 2)) ∧
    decode (image 0x25 5 0 [] [] zeroTail) = .ok (.setAddress 0x05) ∧
    decode (image 0x26 0 0 [] [] zeroTail) = .ok .readConfig := by decide

theorem test_decode_payload_commands :
    payloadCommands.all (fun c =>
      decide (decode (image c.2 0 2 [0x5A, 0xA5] [] zeroTail) = .ok (c.1 [0x5A, 0xA5]))) = true := by
  decide

theorem test_decode_responses :
    decode (image 0x12 0 0 [] [0xAA, 0x05, 0x12, 0x80, 0x07] zeroTail) =
      .ok (.returnInfo 0x05 0x80 (Vector.ofFn fun i => if i.val = 0 then 0x07 else 0)) ∧
    decode (image 0xAA 0 0 [] [] zeroTail) = .ok .startByte := by decide

theorem test_decode_rejects :
    decode (image 0x30 0 0 [] [] zeroTail) = .error (.unlistedSelector 0x30) ∧
    decode (image 0x10 0 0 [] [] zeroTail) = .error (.unlistedSelector 0x10) ∧
    decode (image 0x02 0 24 [] [] zeroTail) = .error (.countOverLanes 24) ∧
    decode (image 0x27 0 23 [] [] zeroTail) = .error (.countOverLanes 23) ∧
    decode (image 0x20 2 0 [] [] zeroTail) = .error (.notBoolean 2) ∧
    decode (image 0x00 0 0 [] [] (tail 8 0 0 0 [0, 0])) = .error (.laneTooWide 8) ∧
    decode (image 0x00 0 0 [] [] (zeroTail ++ [0])) = .error .trailing ∧
    decode [0x00] = .error .truncated := by decide

/-! ## Block operations -/

/-- R101. -/
theorem test_nop : outAt 0 .nop = some .undriven := by decide

/-- Vector R4: `CFG_SET_ADDR 0x05`, then `BUILD [0x26]`. -/
theorem test_cfg_then_build :
    (next? (exec (.cfgSetAddr 0x05) State.reset)).map (fun s => s.regs.addr) = some 0x05 ∧
    (outAt 0x05 (.build (bodyOf [0x26]) 1)).map Outputs.frame =
      some (frameOf [0xAA, 0x05, 0x26] 0xD5) := by decide

/-- Vector B4: a full body at address 0xFF. -/
theorem test_build_full :
    (outAt 0xFF (.build (Vector.replicate 23 0xFF) 23)).map Outputs.frame =
      some (frameOf (0xAA :: List.replicate 24 0xFF) 0x92) := by decide

/-- Lanes at or above `n_in` are ignored (R103), vector B7's frame. -/
theorem test_build_ignores_lanes :
    (outAt 0 (.build (bodyOf [0x12, 0x80, 0x55]) 2)).map Outputs.frame =
      some (ackOf 0x00 0x80 0x3C) := by decide

/-- Vectors C2 and C3. -/
theorem test_checksum :
    (outAt 0 (.checksum (frameOf (0xAA :: List.replicate 24 0xFF) 0))).map Outputs.byte = some 0x92 ∧
    (outAt 0 (.checksum (Vector.replicate 26 0xFF))).map Outputs.byte = some 0xE7 := by decide

/-- Vectors C1, C4, C7. -/
theorem test_check :
    (outAt 0 (.check zeroFrame)).map (fun o => (o.ok, o.err.code)) = some (true, 0) ∧
    (outAt 0 (.check (ackOf 0x00 0x80 0x3C))).map (fun o => (o.ok, o.err.code)) = some (true, 0) ∧
    (outAt 0 (.check (ackOf 0x00 0x80 0x3D))).map (fun o => (o.ok, o.err.code)) =
      some (false, 4) := by decide

/-- Vectors E1, E9, E19, E29. -/
theorem test_encnum :
    (outAt 0 (.encnum 12 4)).map (fun o => (o.raw, o.bytes, o.ok, o.err.code)) =
      some (12000, [0xE0, 0x2E, 0x00, 0x00], true, 0) ∧
    (outAt 0 (.encnum (mkRat 25 10000) 2)).map (fun o => (o.raw, o.ok)) = some (2, true) ∧
    (outAt 0 (.encnum 70 2)).map (fun o => (o.raw, o.bytes, o.ok, o.err.code)) =
      some (4464, [0x70, 0x11], false, 6) ∧
    outAt 0 (.encnum 12 0) = some { Outputs.undriven with err := .badOperand } := by decide

/-- Vectors E10 and E13: the other tie rule. -/
theorem test_encnum_half_away :
    (next? (exec (.encnum (mkRat 25 10000) 2)
      { State.reset with params := { defaultParams with tieRule := .halfAway } })).map
        (fun s => s.out.raw) = some 3 ∧
    (next? (exec (.encnum (mkRat (-5) 10000) 2)
      { State.reset with params := { defaultParams with tieRule := .halfAway } })).map
        (fun s => (s.out.raw, s.out.err.code)) = some (65535, 6) := by decide

/-- Vectors D1, D6, D7. -/
theorem test_decnum :
    (outAt 0 (.decnum s1 3 2)).map (fun o => (o.raw, o.scaled)) = some (1234, mkRat 1234 1000) ∧
    (outAt 0 (.decnum s1 22 4)).map (fun o => (o.raw, o.err.code)) = some (3221225472, 0) ∧
    outAt 0 (.decnum s1 23 4) = some { Outputs.undriven with err := .badOperand } := by decide

/-- Vectors T1 and T2. -/
theorem test_send :
    (next? (exec (.send (frameOf [0xAA, 0x00, 0x23, 0xE0, 0x2E] 0xDB)) State.reset)).map
      (fun s => (s.regs.txBusy, s.regs.txIdx, statusFlags s.regs)) = some (true, 0, 0x10) ∧
    (next? (exec (.send zeroFrame) (withRegs txRegs))).map (fun s => (s.regs, s.out.err.code)) =
      some (txRegs, 9) := by decide

/-- The example of R171, and vector SC16's second SCAN_START. -/
theorem test_scan_start :
    (next? (exec (.scanStart 8) State.reset)).map (fun s => (s.regs.scPhase, s.regs.scMax)) =
      some (.fill, 8) ∧
    (next? (exec (.scanStart 5) (withRegs (huntRegs 0 3)))).map (fun s => (s.regs, s.out.err.code)) =
      some (huntRegs 0 3, 9) := by decide

/-- Vectors A1, A4, A5. -/
theorem test_ack_match :
    (outAt 0 (.ackMatch (ackOf 0x00 0x80 0x3C))).map (fun o => (o.matched, o.ack, o.ok, o.err.code)) =
      some (true, 0x80, true, 0) ∧
    (outAt 0 (.ackMatch (ackOf 0x00 0x90 0x4C))).map (fun o => (o.matched, o.ack, o.ok, o.err.code)) =
      some (true, 0x90, false, 5) ∧
    (outAt 0 (.ackMatch (ackOf 0x00 0xFF 0xBB))).map (fun o => (o.matched, o.ack, o.ok, o.err.code)) =
      some (true, 0xFF, false, 5) := by decide

/-- Vectors A2, A6, A7. -/
theorem test_ack_match_unmatched :
    (outAt 0 (.ackMatch (ackOf 0x05 0x80 0x41))).map (fun o => (o.matched, o.ack, o.ok, o.err.code)) =
      some (false, 0xFF, false, 2) ∧
    (outAt 0 (.ackMatch zeroFrame)).map (fun o => (o.matched, o.ack, o.ok, o.err.code)) =
      some (false, 0xFF, false, 1) ∧
    (outAt 0 (.ackMatch (frameOf [0xAA, 0x00, 0x26, 0x80] 0x50))).map
      (fun o => (o.matched, o.ack, o.ok, o.err.code)) = some (false, 0xFF, false, 3) := by decide

/-- Vector S1. -/
theorem test_status_decode :
    (outAt 0 (.statusDecode s1)).map (fun o => (o.ok, o.err.code, o.snap.echoedCmd)) =
      some (true, 0, 0x26) ∧
    (outAt 0 (.statusDecode s1)).map (fun o => (o.snap.outputEnable, o.snap.overHeat,
      o.snap.outputMode, o.snap.fanSpeed, o.snap.operationState)) =
      some (true, false, .ur, 1, .remote) ∧
    (outAt 0 (.statusDecode s1)).map (fun o => (o.snap.outputCurrentRaw, o.snap.outputVoltageRaw,
      o.snap.targetCurrentRaw, o.snap.maximumVoltageRaw, o.snap.targetVoltageRaw)) =
      some (1234, 12000, 2000, 18000, 12000) := by decide

/-- Vectors SV2, SV3, and ST2's output mode. -/
theorem test_status_decode_verdicts :
    (outAt 5 (.statusDecode s1)).map (fun o => (o.ok, o.err.code)) = some (false, 2) ∧
    (outAt 0 (.statusDecode (s1.set 25 0xC1))).map (fun o => (o.ok, o.err.code)) = some (false, 4) ∧
    (outAt 0 (.statusDecode ((s1.set 9 0x04).set 25 0x33))).map (fun o => (o.ok, o.snap.outputMode)) =
      some (true, .cv) := by decide

/-- Vector R1 of L2.10. -/
theorem test_reserved :
    [Instr.reservedOpB, .reservedOpC, .reservedOpD, .reservedOpE, .reservedOpF].all (fun i =>
      decide (outAt 0 i = some { Outputs.undriven with err := .illegalOp } ∧
        (next? (exec i (withRegs txRegs))).map (fun s => s.regs) = some txRegs)) = true := by decide

/-! ## Port events -/

/-- R172: the 26th byte finds the marker at offset 0, or goes on to HUNT. -/
theorem test_rx_byte_fill :
    (next? (exec (.rxByteFill 0x3C) (withRegs (fillRegs 0xAA 0)))).map (fun s =>
      (s.regs.scPhase, s.regs.scFrame, s.regs.scCount)) =
      some (.done, (zeroFrame.set 0 0xAA).set 25 0x3C, 26) ∧
    (next? (exec (.rxByteFill 0xAA) (withRegs (fillRegs 0x07 1)))).map (fun s =>
      (s.regs.scPhase, s.regs.scFrame)) = some (.hunt, zeroFrame) := by decide

/-- R172's bound of 0 (vector SC14), and a byte that is not the oldest. -/
theorem test_rx_byte_fill_fails :
    (next? (exec (.rxByteFill 0) (withRegs (fillRegs 0 0)))).map (fun s =>
      (s.regs.scPhase, s.regs.scSync, statusFlags s.regs)) = some (.done, false, 0x02) ∧
    (next? (exec (.rxByteFill 1) { withRegs (fillRegs 0 0) with rxChannel := [2] })).map (fun s =>
      (s.regs.scFill, s.rxChannel)) = some (25, [2]) := by decide

/-- R173: the marker test comes before the bound test. -/
theorem test_rx_byte_hunt :
    (next? (exec (.rxByteHunt 0x3C) (withRegs (huntRegs 0xAA 2)))).map (fun s =>
      (s.regs.scPhase, s.regs.scSync, s.regs.scCount, statusFlags s.regs)) =
      some (.done, true, 28, 0x06) ∧
    (next? (exec (.rxByteHunt 0x3C) (withRegs (huntRegs 0x07 2)))).map (fun s =>
      (s.regs.scPhase, s.regs.scSync, s.regs.scFrame)) = some (.done, false, zeroFrame) := by decide

/-- R176, and a pulse in DONE (vector SC15). -/
theorem test_rx_timeout :
    (next? (exec .rxTimeout (withRegs (huntRegs 0x07 5)))).map (fun s =>
      (statusFlags s.regs, s.regs.scCount)) = some (0x0A, 27) ∧
    (next? (exec .rxTimeout (withRegs { Regs.reset with scPhase := .done }))).map (fun s =>
      statusFlags s.regs) = some 0x02 := by decide

/-- R111 in the state of vector T4: the byte at offset 10, then the last byte of a frame. -/
theorem test_tx_byte :
    (next? (exec .txByte (withRegs { txRegs with txIdx := 3 }))).map (fun s =>
      (s.txChannel, s.regs.txIdx, s.regs.txBusy)) = some ([0xE0], 4, true) ∧
    (next? (exec .txByte (withRegs { txRegs with txIdx := 25 }))).map (fun s =>
      (s.txChannel, s.regs.txIdx, s.regs.txBusy)) = some ([0xDB], 26, false) := by decide

/-- The model's fault beyond the frame (log 16). -/
theorem test_tx_byte_beyond :
    stops (exec .txByte (withRegs { txRegs with txIdx := 26 })) =
      some (.inl (.frameOffset 26)) := by decide

/-! ## Wire commands, at `ADDR = 0` (L2.9) -/

theorem test_boolean_commands :
    (outAt 0 (.remoteEnable true)).map Outputs.frame = some (frameOf [0xAA, 0x00, 0x20, 0x01] 0xCB) ∧
    (outAt 0 (.remoteEnable false)).map Outputs.frame = some (frameOf [0xAA, 0x00, 0x20] 0xCA) ∧
    (outAt 0 (.outputEnable true)).map Outputs.frame = some (frameOf [0xAA, 0x00, 0x21, 0x01] 0xCC) ∧
    (outAt 0 (.outputEnable false)).map Outputs.frame = some (frameOf [0xAA, 0x00, 0x21] 0xCB) := by
  decide

theorem test_numeric_commands :
    (outAt 0 (.setLimitV 30)).map Outputs.frame =
      some (frameOf [0xAA, 0x00, 0x22, 0x30, 0x75] 0x71) ∧
    (outAt 0 (.setOutputV 12)).map Outputs.frame =
      some (frameOf [0xAA, 0x00, 0x23, 0xE0, 0x2E] 0xDB) ∧
    (outAt 0 (.setOutputI (mkRat 3 2))).map Outputs.frame =
      some (frameOf [0xAA, 0x00, 0x24, 0xDC, 0x05] 0xAF) := by decide

/-- `CMD_SET_I 70.0`: ENCNUM's result reports `RANGE`, and the frame a host "that sent anyway" would
transmit is built (R290; log 7). -/
theorem test_numeric_command_range :
    (next? (exec (.setOutputI 70) State.reset)).map (fun s =>
      (s.results.map (fun o => o.err.code), s.out.frame)) =
      some ([6, 0], frameOf [0xAA, 0x00, 0x24, 0x70, 0x11] 0x4F) := by decide

theorem test_address_and_config :
    (outAt 0 (.setAddress 0x05)).map Outputs.frame =
      some (frameOf [0xAA, 0x00, 0x25, 0x05] 0xD4) ∧
    (outAt 0 .readConfig).map Outputs.frame = some (frameOf [0xAA, 0x00, 0x26] 0xD0) ∧
    (outAt 5 .readConfig).map Outputs.frame = some (frameOf [0xAA, 0x05, 0x26] 0xD5) := by decide

/-- The checksums `ck0` and `ck1` of L2.9 for the twelve codes with a raw payload. -/
theorem test_payload_commands :
    (payloadCommands.zip
      ([0xD1, 0xD2, 0xD3, 0xD4, 0xD5, 0xD6, 0xD7, 0xD8, 0xD9, 0xDB, 0xDC, 0xE1] : List Byte)).all
      (fun c =>
        decide ((outAt 0 (c.1.1 [])).map Outputs.frame = some (frameOf [0xAA, 0x00, c.1.2] c.2) ∧
          (outAt 0 (c.1.1 [0x01])).map Outputs.frame =
            some (frameOf [0xAA, 0x00, c.1.2, 0x01] (c.2 + 1)))) = true := by decide

/-- The frames of R149. -/
theorem test_return_info :
    (outAt 0 (.returnInfo 0 0x80 ((Vector.replicate 22 0).set 21 0x3C))).map (fun o => (o.ok, o.ack)) =
      some (true, 0x80) ∧
    (outAt 0 (.returnInfo 0 0x90 ((Vector.replicate 22 0).set 21 0x4C))).map
      (fun o => (o.ok, o.err.code)) = some (false, 5) := by decide

/-- StartByte in a scan that has its 25 bytes, and in IDLE, where it stays in the channel (R177). -/
theorem test_start_byte :
    (next? (exec .startByte (withRegs (fillRegs 0x07 1)))).map (fun s =>
      (s.regs.scWin[25], s.regs.scPhase, s.rxChannel)) = some (0xAA, .hunt, []) ∧
    (next? (exec .startByte State.reset)).map (fun s => (s.regs, s.rxChannel)) =
      some (Regs.reset, [0xAA]) := by decide

/-! ## The functional scan and reset -/

/-- Vectors SC5, SC6, SC9 and SC11 by R178's function. -/
theorem test_scan :
    (scan ([1, 2, 3, 4, 5] ++ (ackOf 0 0x80 0x3C).toList) 4 false).outcome = .fail ∧
    scan ([1, 2, 3, 4, 5] ++ (ackOf 0 0x80 0x3C).toList) 5 false =
      ⟨.sync, (ackOf 0 0x80 0x3C).toList, 31⟩ ∧
    (scan ([1, 0xAA, 2] ++ List.replicate 23 0 ++ (ackOf 0 0x80 0x3C).toList) 8 false).consumed = 27 ∧
    scan ([1, 2, 3] ++ (ackOf 0 0x80 0x3C).toList.take 24) 5 true =
      ⟨.timeout, zeroFrame.toList, 27⟩ := by decide

/-- Vector R3 of L2.10: rst beside a transaction leaves the channel alone. -/
theorem test_reset :
    (next? (step { State.reset with
      regs := huntRegs 0xAA 5, rxChannel := [7],
      inputs := [[.word (image 0x01 5 0 [] [] zeroTail), .rst]] })).map
        (fun s => (s.regs, s.rxChannel, s.inputs)) = some (Regs.reset, [7], []) := by decide

/-! ## Witnesses: a state and operands that meet all the hypotheses of a statement together -/

/-- The image of a SCAN_START with the bound 5. -/
def scanImage : List Byte := image 0x08 0 0 [] [] (tail 0 0 5 0 [0, 0])

/-- A SEND of a frame of zeros. -/
def sendImage : List Byte := image 0x07 0 0 [] [] zeroTail

/-- A layout whose status field overlaps another. -/
def overlapping : StatusLayout := { defaultLayout with status := ⟨3, 1⟩ }

theorem witness_EncodeThenDecodeIsIdentity :
    (Instr.build (Vector.replicate 23 0xAA) 23).wellFormed = true ∧
      Instr.portOpen .idle false (.build (Vector.replicate 23 0xAA) 23) = true ∧
      (Instr.rxByteHunt 0xAA).wellFormed = true ∧ Instr.portOpen .hunt false (.rxByteHunt 0xAA) = true ∧
      Instr.txByte.wellFormed = true ∧ Instr.portOpen .idle true .txByte = true := by decide

theorem witness_DecodedInstructionsAreWellFormed :
    decodeSample .idle false (.word (image 0x27 0 22 [] [] zeroTail)) =
        .ok (.calMode (List.replicate 22 0)) ∧
      decodeSample .fill false (.event (.rx 0xFF)) = .ok (.rxByteFill 0xFF) := by decide

theorem witness_UnlistedSelectorIsRefused :
    (Lanes.zero 0x30).sel ∉ listedSelectors ∧
      (withInputs [[.word (laneBytes (Lanes.zero 0x30))]]).inputs =
        [[.word (laneBytes (Lanes.zero 0x30))]] ∧ PortInput.rst ∉ ([] : List PortInput) := by decide

theorem witness_CountOverLanesIsRefused :
    (({ Lanes.zero 0x02 with n := 24 } : Lanes).sel = 0x02 ∧
      23 < ({ Lanes.zero 0x02 with n := 24 } : Lanes).n.toNat) ∧
    ((∃ c ∈ payloadCommands, c.2 = ({ Lanes.zero 0x37 with n := 23 } : Lanes).sel) ∧
      22 < ({ Lanes.zero 0x37 with n := 23 } : Lanes).n.toNat) := by
  refine ⟨by decide, ⟨(.enaLocalKey, 0x37), by simp [payloadCommands], by decide⟩, by decide⟩

theorem witness_StepRunsDecodedInstruction :
    (withInputs [[.word scanImage, .rxValid]]).inputs = [[.word scanImage, .rxValid]] ∧
      PortInput.rst ∉ [PortInput.rxValid] ∧ decode scanImage = .ok (.scanStart 5) ∧
      decode [0x30] = .error .truncated := by decide

theorem witness_StepTakesPortHandshakes :
    (∀ ph : ScPhase, ({ withInputs [[.rxValid]] with
        regs := { Regs.reset with scPhase := ph }, rxChannel := [7] } : State).regs.scPhase = ph) ∧
      ({ withInputs [[.rxValid]] with rxChannel := [7] } : State).rxChannel = 7 :: [] ∧
      (withInputs [[.rxValid]]).rxChannel = [] ∧
      (withInputs [[.timeout], [.txReady], [.arrive [1]]]).inputs =
        [[.timeout], [.txReady], [.arrive [1]]] := by
  exact ⟨fun _ => rfl, rfl, rfl, rfl⟩

theorem witness_StepWithoutInputWaits :
    State.reset.inputs = [] ∧ (withInputs [[], [.timeout]]).inputs = [] :: [[.timeout]] ∧
      runOutcome (withInputs [[]]) = some (observed State.reset) := by decide

/-- R259: a script with a line left, a busy scan and a frame being transmitted are no ended runs. -/
theorem test_run_goes_on :
    runOutcome (withInputs [[], [.timeout]]) = none ∧ runOutcome (withRegs (fillRegs 0 0)) = none ∧
      runOutcome (withRegs txRegs) = none := by decide

theorem witness_FetchedWordRunsNext : decodeTableWord 8 0x8 = some (.scanStart 0) := by decide

theorem witness_ResetFromAnyState :
    (withInputs [[.timeout, .rst]]).inputs = [.timeout, .rst] :: [] ∧
      PortInput.rst ∈ [PortInput.timeout, .rst] := by decide

theorem witness_ResetDropsTheRestOfItsStep :
    (withInputs [[.rst, .rxValid], [.timeout]]).inputs = [.rst, .rxValid] :: [[.timeout]] ∧
      PortInput.rst ∈ [PortInput.rst, .rxValid] := by decide

theorem zeroFrame_checks : ChecksAs zeroFrame true := fun _ => ⟨_, rfl, rfl⟩

/-- Swapping offsets 3 and 4 of an acknowledgement keeps its sum. -/
theorem witness_ChecksumLawsOfR112 :
    ChecksAs zeroFrame true ∧ (1 : Byte) ≠ zeroFrame[24] ∧
      (ackOf 0 0x80 0x3C)[25] = (frameOf [0xAA, 0x00, 0x12, 0x00, 0x80] 0x3C)[25] ∧
      ((frameOf [0xAA, 0x00, 0x12, 0x00, 0x80] 0x3C).toList.take 25).Perm
        ((ackOf 0 0x80 0x3C).toList.take 25) ∧
      ChecksAs (ackOf 0 0x80 0x3C) true :=
  ⟨zeroFrame_checks, by decide, by decide, by decide, fun _ => ⟨_, rfl, rfl⟩⟩

theorem witness_ChecksumLaws_sum :
    (frameOf [0xAA, 0x00, 0x12, 0x80, 0x01, 0xFF] 0x3C)[25] = (ackOf 0 0x80 0x3C)[25] ∧
      (cksum (frameOf [0xAA, 0x00, 0x12, 0x80, 0x01, 0xFF] 0x3C)) = cksum (ackOf 0 0x80 0x3C) := by
  decide

theorem witness_RoundingIsToNearestWithTies :
    IsRound .halfEven (1 / 2) 0 ∧ IsRound .halfAway (1 / 2) 1 ∧ IsRound .halfEven (-1 / 3) 0 := by
  unfold IsRound
  refine ⟨⟨?_, fun _ => ?_⟩, ⟨?_, fun _ => ?_⟩, ⟨?_, fun h => ?_⟩⟩ <;> norm_num [abs_of_pos] at *

/-- A full body, and one lane too many. -/
theorem witness_BuildAssemblesTheFrame : 23 ≤ 23 := by decide

theorem witness_OperandLegality : 23 ≤ 23 ∧ 23 < 24 := by decide

/-- The widths at both ends of the legal range, and beyond them. -/
theorem witness_EncnumEncodesOrReports :
    (1 ≤ (1 : BitVec 3).toNat ∧ (1 : BitVec 3).toNat ≤ 4) ∧
      (1 ≤ (4 : BitVec 3).toNat ∧ (4 : BitVec 3).toNat ≤ 4) ∧
      ¬(1 ≤ (0 : BitVec 3).toNat ∧ (0 : BitVec 3).toNat ≤ 4) ∧
      ¬(1 ≤ (5 : BitVec 3).toNat ∧ (5 : BitVec 3).toNat ≤ 4) := by decide

/-- A number encoded without an error, one of them at a tie. -/
theorem witness_EncnumPrecisionLaw :
    (∃ t, exec (.encnum 12 4) State.reset = .next t ∧ t.out.err = .none) ∧
      ∃ t, exec (.encnum (mkRat 5 10000) 2) State.reset = .next t ∧ t.out.err = .none :=
  ⟨⟨_, rfl, by decide⟩, ⟨_, rfl, by decide⟩⟩

theorem witness_DecnumDecodesOrReports :
    (1 ≤ (4 : BitVec 3).toNat ∧ (4 : BitVec 3).toNat ≤ 4 ∧
      (22 : BitVec 5).toNat + (4 : BitVec 3).toNat ≤ 26) ∧
      26 < (23 : BitVec 5).toNat + (4 : BitVec 3).toNat ∧
      ¬(1 ≤ (0 : BitVec 3).toNat ∧ (0 : BitVec 3).toNat ≤ 4) := by decide

theorem witness_NumberRoundTrip :
    ∃ t, exec (.encnum 12 4) State.reset = .next t ∧ t.out.err = .none ∧
      (22 : BitVec 5).toNat + (4 : BitVec 3).toNat ≤ 26 ∧
      ∀ i, i < (4 : BitVec 3).toNat →
        ((zeroFrame.set 22 0xE0).set 23 0x2E).toList.getD ((22 : BitVec 5).toNat + i) 0 =
          t.out.bytes.getD i 0 :=
  ⟨_, rfl, by decide, by decide, by decide⟩

theorem witness_SendStartsOrReportsBusy :
    State.reset.regs.txBusy = false ∧ (withRegs txRegs).regs.txBusy = true := by decide

/-- The last byte of a frame, an idle transmitter, and the state that no run reaches. -/
theorem witness_TxBytePushesTheNextByte :
    ((withRegs { txRegs with txIdx := 25 }).regs.txIdx < 26 ∧
      (withRegs { txRegs with txIdx := 25 }).regs.txBusy = true) ∧
    State.reset.regs.txBusy = false ∧
    (withRegs { txRegs with txIdx := 26 }).regs.txBusy = true ∧
      26 ≤ (withRegs { txRegs with txIdx := 26 }).regs.txIdx := by decide

theorem witness_SendThenHandshakesTransmitTheFrame :
    encode (.send zeroFrame) = .word sendImage ∧
      (withInputs ([.word sendImage] :: List.replicate 27 [.txReady])).inputs =
        [.word sendImage] :: List.replicate 27 [.txReady] ∧
      (withInputs []).regs.txBusy = false := by decide

theorem witness_TimeoutEndsABusyScan :
    ((withRegs (huntRegs 0 2)).regs.scPhase = .fill ∨
      (withRegs (huntRegs 0 2)).regs.scPhase = .hunt) ∧
    (State.reset.regs.scPhase = .idle ∨ State.reset.regs.scPhase = .done) := by decide

theorem witness_ScanStartBeginsOrReportsBusy :
    State.reset.regs.scPhase = .idle ∧ (withRegs (fillRegs 0 0)).regs.scPhase = .fill ∧
      (withRegs (huntRegs 0 2)).regs.scPhase = .hunt ∧
      (withRegs { Regs.reset with scPhase := .done }).regs.scPhase = .done := by decide

/-- The four ways a byte in FILL ends. -/
theorem witness_FillTakesOneByte :
    ({ withRegs (fillRegs 0xAA 0) with rxChannel := [7, 8] } : State).rxChannel = 7 :: [8] ∧
      { fillRegs 0xAA 0 with scFill := 24 }.scFill + 1 ≠ 26 ∧ (fillRegs 0xAA 0).scFill + 1 = 26 ∧
      (fillByte 7 (fillRegs 0xAA 0)).scWin[0] = 0xAA ∧
      (fillByte 7 (fillRegs 0 0)).scWin[0] ≠ 0xAA ∧ (fillRegs 0 0).scMax = 0 ∧
      (fillByte 7 (fillRegs 0 1)).scWin[0] ≠ 0xAA ∧ (fillRegs 0 1).scMax ≠ 0 := by decide

/-- The three ways a byte in HUNT ends. -/
theorem witness_HuntTakesOneByte :
    (huntByte 7 (huntRegs 0xAA 2)).scWin[0] = 0xAA ∧
      (huntByte 7 (huntRegs 0 2)).scWin[0] ≠ 0xAA ∧
      (huntByte 7 (huntRegs 0 2)).scExtra = (huntRegs 0 2).scMax.toNat ∧
      (huntByte 7 (huntRegs 0 3)).scWin[0] ≠ 0xAA ∧
      (huntByte 7 (huntRegs 0 3)).scExtra ≠ (huntRegs 0 3).scMax.toNat := by decide

theorem witness_ReceiveHandshakeAgainstTheChannel :
    State.reset.regs.scPhase ≠ .fill ∧ State.reset.regs.scPhase ≠ .hunt ∧
      ({ withRegs (fillRegs 0 0) with rxChannel := [2] } : State).rxChannel = 2 :: [] ∧
      (2 : Byte) ≠ 1 ∧ (withRegs (fillRegs 0 0)).rxChannel = [] ∧
      (withRegs (fillRegs 0 0)).regs.scPhase = .fill ∧ (withRegs (huntRegs 0 2)).rxChannel = [] ∧
      (withRegs (huntRegs 0 2)).regs.scPhase = .hunt := by decide

theorem witness_ScannerRefinesTheScanFunction :
    (withRegs { Regs.reset with scPhase := .done }).regs.scPhase = .done ∧
      encode (.scanStart 5) = .word scanImage ∧
      ({ withInputs [[.word scanImage], [.rxValid], [.timeout]] with rxChannel := [7] } : State).inputs =
        [.word scanImage] :: (List.replicate 1 [.rxValid] ++ if true then [[.timeout]] else []) := by
  decide

theorem witness_ScanRecoversAfterGarbage :
    (0xAA : Byte) ∉ ([1, 2, 3, 4, 5] : List Byte) ∧ (ackOf 0 0x80 0x3C).toList.length = 26 ∧
      (ackOf 0 0x80 0x3C).toList.head? = some 0xAA ∧ ([1, 2, 3, 4, 5] : List Byte).length ≤ 5 ∧
      4 < ([1, 2, 3, 4, 5] : List Byte).length := by decide

theorem witness_ScanLocksOnTheFirstMarker :
    26 + 5 ≤ ([1, 2, 3, 4, 5] ++ (ackOf 0 0x80 0x3C).toList).length ∧
      ([1, 2, 3, 4, 5] ++ (ackOf 0 0x80 0x3C).toList)[5]? = some 0xAA ∧
      ∀ q, q < 5 → ([1, 2, 3, 4, 5] ++ (ackOf 0 0x80 0x3C).toList)[q]? ≠ some 0xAA := by decide

/-- A scan in HUNT and a transmission under way meet the invariant. -/
theorem busy_meets_inv : StateInv (withRegs { huntRegs 7 5 with
    scWin := zeroFrame, txBuf := zeroFrame, txIdx := 10, txBusy := true }) := by
  refine ⟨⟨?_, ?_, ?_, ?_, ?_⟩, ?_, ?_, ?_, ?_, ?_, ?_⟩ <;> decide

theorem witness_StepKeepsInv :
    ∃ s t : State, StateInv s ∧ s.regs.scPhase = .hunt ∧ s.inputs = [[.rxValid]] ∧
      step s = .next t ∧ t.regs.scExtra = s.regs.scExtra + 1 :=
  ⟨{ withRegs { huntRegs 7 5 with
      scWin := zeroFrame, txBuf := zeroFrame, txIdx := 10, txBusy := true } with
      rxChannel := [7], inputs := [[.rxValid]] },
    _, busy_meets_inv, by decide, by decide, rfl, by decide⟩

theorem witness_ReachableStatesMeetScannerLaws :
    ∃ t, Host.Core.run Sys2Proof.core 1 { State.reset with
      params := defaultParams, rxChannel := [7], inputs := [[.word scanImage]] } = .next t :=
  ⟨_, rfl⟩

theorem witness_NothingStopsAReadyMachine :
    Ready State.reset ∧ Ready (withRegs txRegs) ∧
      (Instr.calMode (List.replicate 22 0)).wellFormed = true ∧
      layoutAdmitted State.reset.params.layout = true ∧
      ScheduleDecodes (withInputs [[.word scanImage, .rxValid]]) := by
  refine ⟨⟨by decide, by decide⟩, ⟨by decide, by decide⟩, by decide, by decide, ?_⟩
  intro cycle hc img hi
  simp only [withInputs, List.mem_cons, List.not_mem_nil, or_false] at hc
  subst hc
  simp only [List.mem_cons, List.not_mem_nil, or_false, PortInput.word.injEq, reduceCtorEq] at hi
  subst hi
  exact ⟨.scanStart 5, by decide⟩

theorem witness_AddrWrittenOnlyByConfigAndReset :
    (∃ t, exec .nop State.reset = .next t) ∧
      (∃ t, step (withInputs [[.word (image 0x01 5 0 [] [] zeroTail)]]) = .next t ∧
        t.regs.addr ≠ State.reset.regs.addr) ∧
      ∃ t, step { withInputs [[.rst]] with regs := { Regs.reset with addr := 5 } } = .next t ∧
        t.regs.addr ≠ 5 :=
  ⟨⟨_, rfl⟩, ⟨_, rfl, by decide⟩, ⟨_, rfl, by decide⟩⟩

theorem witness_RegistersHaveOnlyTheirWriters :
    (∃ t, exec (.cfgSetAddr 5) (withRegs txRegs) = .next t) ∧
      (∃ t, exec .txByte (withRegs txRegs) = .next t) ∧
      ∃ t, exec .rxTimeout (withRegs (huntRegs 0 2)) = .next t := ⟨⟨_, rfl⟩, ⟨_, rfl⟩, ⟨_, rfl⟩⟩

theorem witness_ErrorsAreNotSticky :
    ∃ t, exec (.check zeroFrame)
      { State.reset with out := { Outputs.undriven with err := .busy } } = .next t ∧
        drivesResult (.check zeroFrame) = true := ⟨_, rfl, rfl⟩

/-- A transaction's step shows its result, which the step after it (with nothing to take) and a turn
of the host do not (R30). -/
theorem test_result_lasts_one_step :
    (∃ t, step (withInputs [[.word (image 0x0F 0 0 [] [] zeroTail)]]) = .next t ∧
      t.out.err = .illegalOp ∧ step t = .next (undrive t)) ∧
      (takeTurn ⟨1, 0⟩ (hostOf { State.reset with out := { Outputs.undriven with err := .busy } } [])
        .host).block.out = .undriven := ⟨⟨_, rfl, rfl, rfl⟩, by decide⟩

theorem witness_ErrorCodesOfEachOperation :
    (∃ t, exec (.rxByteFill 7) (withRegs (fillRegs 0 0)) = .next t) ∧
      ∃ t, exec .txByte (withRegs txRegs) = .next t := ⟨⟨_, rfl⟩, ⟨_, rfl⟩⟩

theorem witness_StatusDecodeJudgesAFrame :
    layoutAdmitted State.reset.params.layout = true := by decide

theorem witness_FailureFrameIsNeverAccepted :
    layoutAdmitted State.reset.params.layout = true := by decide

theorem witness_LayoutAdmission :
    layoutAdmitted State.reset.params.layout = true ∧
      layoutAdmitted { State.reset with
        params := { defaultParams with layout := overlapping } }.params.layout = false := by decide

theorem witness_SnapshotFields :
    layoutAdmitted defaultLayout = true ∧ (0x91 : Byte) = s1.toList.getD defaultLayout.status.off 0 := by
  decide

theorem witness_RawPayloadCommandsBuildTheirFrames :
    ((Instr.enaLocalKey, (0x37 : Byte)) : (List Byte → Instr) × Byte) ∈ payloadCommands ∧
      (List.replicate 22 (0xFF : Byte)).length ≤ 22 := ⟨by simp [payloadCommands], by decide⟩

theorem witness_ReturnInfoIsRecognised :
    (0x00 : Byte) = State.reset.regs.addr ∧ (0x05 : Byte) ≠ State.reset.regs.addr := by decide

theorem witness_StartByteArrivesAtTheReceivePort :
    (withRegs (fillRegs 0 0)).rxChannel ++ [0xAA] = 0xAA :: [] ∧
      ({ withRegs (huntRegs 0 2) with rxChannel := [7] } : State).rxChannel ++ [0xAA] =
        7 :: [0xAA] := by decide

/-- One attempt, acknowledged. -/
def ackedTurns : List Turn :=
  [.host, .host, .host, .env (.arrive (ackOf 0 0x80 0x3C).toList)] ++
    (List.replicate 26 (.env .rxValid) ++ [.host])

theorem reset_meets_inv : StateInv State.reset := by
  refine ⟨⟨?_, ?_, ?_, ?_, ?_⟩, ?_, ?_, ?_, ?_, ?_, ?_⟩ <;> decide

/-- `host_send` of a SetAddress frame, which is no one-shot operation, runs from a ready host (R252). -/
theorem test_host_sends_any_build :
    (hostRun ⟨1, 0⟩ ackedTurns (hostOf State.reset [.send (bodyOf [0x25, 0x07]) 2])).reports =
      [.success 1] := by decide +kernel

/-- A success, a failure and a rejected input (R257's three outcomes). -/
theorem witness_HostWritesAsManyFramesAsAttempts :
    StateInv State.reset ∧
      (hostRun ⟨1, 0⟩ ackedTurns (hostOf State.reset [.oneShot (.outputEnable true)])).reports =
        [.success 1] ∧
      (hostRun ⟨1, 0⟩ [.host, .host, .host, .env .timeout, .host]
        (hostOf State.reset [.oneShot (.outputEnable true)])).reports =
        [.transmitFailure 1 .framingLoss true] ∧
      (hostRun ⟨1, 0⟩ [.host] (hostOf State.reset [.oneShot (.setOutputCurrent 70)])).reports =
        [.callerError] :=
  ⟨reset_meets_inv, by decide +kernel, by decide +kernel, by decide +kernel⟩

theorem witness_HostRejectsOutOfRangeInput :
    (hostOf State.reset [.oneShot (.setOutputCurrent 70)]).pc = .ready ∧
      ∃ e, exec (.encnum 70 2) State.reset = .next e ∧ e.out.err = .range :=
  ⟨rfl, _, rfl, by decide⟩

/-- The first operation has failed, the second waits (R254), and there is an attempt to make. -/
theorem witness_CloseAttemptsBothOperations :
    let h := hostRun ⟨1, 0⟩ [.host, .host, .host, .env .timeout, .host] (hostOf State.reset closeTasks)
    h.todo = [.oneShot (.remoteControl false)] ∧ h.pc = .ready ∧
      h.reports = [.transmitFailure 1 .framingLoss true] ∧ 1 ≤ (⟨1, 0⟩ : HostParams).maxAttempts := by
  decide

/-- R7: "10 by default". -/
theorem test_defaultHostParams : (defaultHostParams 5).maxAttempts = 10 := rfl

end Sys2Proof.Tests
end

/-! ## Rounding is to the nearest integer (O21; spec/00_scope.md R14) -/

section
namespace Sys2Proof.Machine

/-- The distance from an integer to a rational, over the rational's denominator. -/
theorem abs_intCast_sub_rat (x : Rat) (n : Int) :
    |(n : Rat) - x| = ((|n * x.den - x.num| : Int) : Rat) / x.den := by
  have hd : (0 : Rat) < x.den := by exact_mod_cast x.den_pos
  rw [eq_div_iff hd.ne']
  calc |(n : Rat) - x| * x.den = |((n : Rat) - x) * x.den| := by rw [abs_mul, abs_of_pos hd]
    _ = ((|n * x.den - x.num| : Int) : Rat) := by
      rw [sub_mul, Rat.mul_den_eq_num]; push_cast; rfl

/-- The magnitude of a rational, over its denominator. -/
theorem abs_rat_mul_den (x : Rat) : |x| * x.den = ((|x.num| : Int) : Rat) := by
  rw [← Nat.abs_cast x.den, ← abs_mul, Rat.mul_den_eq_num, Int.cast_abs]

/-- `roundTie` answers a nearest integer, a tie decided by the rule: `roundRatio_spec` divided by the
denominator. -/
theorem roundTie_isRound (tie : TieRule) (x : Rat) : IsRound tie x (roundTie tie x) := by
  have hd : (0 : Rat) < x.den := by exact_mod_cast x.den_pos
  obtain ⟨hnear, htie⟩ := roundRatio_spec tie x.num x.den x.den_pos
  unfold IsRound
  rw [abs_intCast_sub_rat]
  refine ⟨?_, fun h => ?_⟩
  · rw [div_le_div_iff₀ hd two_pos, one_mul, mul_comm]
    exact_mod_cast hnear
  · rw [div_eq_div_iff hd.ne' two_ne_zero, one_mul, mul_comm] at h
    have hrule := htie (by exact_mod_cast h)
    cases tie with
    | halfEven => exact hrule
    | halfAway =>
      refine lt_of_mul_lt_mul_right ?_ hd.le
      rw [abs_rat_mul_den, ← Nat.abs_cast x.den, ← abs_mul]
      exact_mod_cast hrule

/-- No value of `round_T(x)` is above another: the two would be the neighbours of a tie, which are not
both even, and not both of larger magnitude than `x`. -/
theorem IsRound.le {tie : TieRule} {x : Rat} {m n : Int} (hm : IsRound tie x m)
    (hn : IsRound tie x n) : n ≤ m := by
  refine not_lt.mp fun hlt => ?_
  obtain ⟨hmNear, hmTie⟩ := hm
  obtain ⟨hnNear, hnTie⟩ := hn
  have hmx := abs_le.mp hmNear
  have hnx := abs_le.mp hnNear
  have hsucc : n = m + 1 := by
    have : (n : Rat) ≤ m + 1 := by linarith
    have : n ≤ m + 1 := by exact_mod_cast this
    omega
  subst hsucc
  have hx : x = m + 1 / 2 := by push_cast at hnx; linarith
  subst hx
  have hmRule := hmTie (by norm_num)
  have hnRule := hnTie (by push_cast; norm_num)
  cases tie with
  | halfEven => exact Int.even_add_one.mp hnRule hmRule
  | halfAway =>
    simp only at hmRule hnRule
    obtain h0 | h0 : 0 ≤ m ∨ m + 1 ≤ 0 := by omega
    · have hq : (0 : Rat) ≤ m := by exact_mod_cast h0
      rw [abs_of_nonneg hq, abs_of_nonneg (by linarith)] at hmRule
      linarith
    · have hq : ((m + 1 : Int) : Rat) ≤ 0 := by exact_mod_cast h0
      rw [abs_of_nonpos hq, abs_of_nonpos (by push_cast at hq; linarith)] at hnRule
      push_cast at hnRule
      linarith

/-- At most one integer is `round_T(x)`. -/
theorem IsRound.unique {tie : TieRule} {x : Rat} {m n : Int} (hm : IsRound tie x m)
    (hn : IsRound tie x n) : m = n :=
  le_antisymm (hn.le hm) (hm.le hn)

/-- Settles O21: `roundTie` gives such an integer, and there is at most one. -/
theorem roundingIsToNearestWithTies : Obligations.RoundingIsToNearestWithTies := by
  intro tie x
  exact ⟨roundTie_isRound tie x, fun _ hn => hn.unique (roundTie_isRound tie x)⟩

end Sys2Proof.Machine
end

/-! ## STATUS_FLAGS and the reset values (O12, O13; spec/10_state.md R29, R36) -/

section
namespace Sys2Proof.Machine

theorem scanDone_iff (r : Regs) : scanDone r = true ↔ r.scPhase = .done := by
  simp [scanDone]

/-- The view bit by bit, from bit 0 up. -/
theorem statusFlags_getLsbD (r : Regs) (i : Nat) :
    (statusFlags r).getLsbD i =
      [scanBusy r, scanDone r, r.scSync, r.scTmo, r.txBusy].getD i false := by
  rw [statusFlags, BitVec.getLsbD_append, BitVec.getLsbD_append, BitVec.getLsbD_append,
    BitVec.getLsbD_append, BitVec.getLsbD_append]
  match i with
  | 0 | 1 | 2 | 3 | 4 => simp
  | i + 5 => simp

/-- Bits 7:5 read as 0: the view is below 2^5. -/
theorem statusFlags_toNat_lt (r : Regs) : (statusFlags r).toNat < 32 := by
  rw [statusFlags, BitVec.toNat_append]
  simpa using BitVec.isLt _

/-- Settles O12: the table of R36, entry by entry. -/
theorem resetValuesOfEveryRegister : Obligations.ResetValuesOfEveryRegister := by
  unfold Obligations.ResetValuesOfEveryRegister
  decide

/-- Settles O13: each bit of the view is its flag, and the three above them are 0. -/
theorem statusFlagsBits : Obligations.StatusFlagsBits := by
  refine ⟨fun r => ⟨?_, ?_, statusFlags_getLsbD r 2, statusFlags_getLsbD r 3,
    statusFlags_getLsbD r 4, ?_⟩, rfl⟩
  · rw [statusFlags_getLsbD]; exact scanBusy_iff r
  · rw [statusFlags_getLsbD]; exact scanDone_iff r
  · exact Nat.div_eq_of_lt (statusFlags_toNat_lt r)

end Sys2Proof.Machine
end

/-! ## R27 in every reachable state (O40; spec/10_state.md R27)

`exec_cases` and `step_cases` say in which ways a step changes the registers; each of these ways keeps
`RegsInv`, and so does every run from reset. -/

section
namespace Sys2Proof.Machine

variable {r : Regs}

theorem regsInv_reset : RegsInv .reset := by
  refine ⟨⟨?_, ?_, ?_, ?_, ?_⟩, ?_, ?_, ?_, ?_, ?_, ?_⟩ <;> decide

/-! ### Ways that leave the scanner alone -/

theorem RegsInv.setAddr (h : RegsInv r) (a : Byte) : RegsInv { r with addr := a } :=
  { h with laws := { h.laws with } }

theorem RegsInv.send (h : RegsInv r) (f : Frame) :
    RegsInv { r with txBuf := f, txIdx := 0, txBusy := true } :=
  { h with
    laws := { h.laws with }
    txRange := by simp
    txBusyIff := by simp }

theorem RegsInv.advanceTx (h : RegsInv r) (left : r.txIdx < 26) : RegsInv (advanceTx r) :=
  { h with
    laws := { h.laws with }
    txRange := left
    txBusyIff := by
      have hb : r.txBusy = true := h.txBusyIff.mpr left
      rw [advanceTx_txBusy, advanceTx_txIdx]
      split
      · simp; omega
      · simp [hb]; omega }

/-! ### The scan's beginning, and its end by a timeout -/

theorem RegsInv.startScan (h : RegsInv r) (m : BitVec 16) : RegsInv (startScan m r) where
  laws := by constructor <;> simp
  fillRange := by simp
  extraRange := by simp
  countSplit := by simp
  notDoneClear _ := ⟨rfl, rfl, rfl⟩
  txRange := h.txRange
  txBusyIff := h.txBusyIff

theorem RegsInv.timeout (h : RegsInv r) :
    RegsInv { r with scFrame := zeroFrame, scSync := false, scTmo := true, scPhase := .done } :=
  { h with
    laws := by constructor <;> simp
    notDoneClear := fun hp => absurd rfl hp }

/-! ### A received byte -/

/-- The registers of a busy scan when a whole window has been read and its test is still to come
(R172, R173): the counts, the cleared results, and the transmitter. -/
structure WindowRead (r : Regs) : Prop where
  fill : r.scFill = 26
  extra : r.scExtra ≤ r.scMax.toNat
  count : r.scCount = 26 + r.scExtra
  frame : r.scFrame = zeroFrame
  sync : r.scSync = false
  tmo : r.scTmo = false
  txRange : r.txIdx ≤ 26
  txBusyIff : r.txBusy = true ↔ r.txIdx < 26

theorem WindowRead.finishSync (h : WindowRead r) (hm : r.scWin[0] = marker) :
    RegsInv (finishSync r) where
  laws := by constructor <;> simp [h.tmo, h.count]; exact hm
  fillRange := h.fill.le
  extraRange := h.extra
  countSplit := by simp [h.count, h.fill]
  notDoneClear hp := absurd rfl hp
  txRange := h.txRange
  txBusyIff := h.txBusyIff

theorem WindowRead.finishFail (h : WindowRead r) : RegsInv (finishFail r) where
  laws := by constructor <;> simp [h.count]
  fillRange := h.fill.le
  extraRange := h.extra
  countSplit := by simp [h.count, h.fill]
  notDoneClear hp := absurd rfl hp
  txRange := h.txRange
  txBusyIff := h.txBusyIff

/-- The scan goes on in HUNT: no marker at the front of the window, and a byte left to read. -/
theorem WindowRead.hunt (h : WindowRead r) (hp : r.scPhase = .hunt) (hm : r.scWin[0] ≠ marker)
    (hx : r.scExtra ≠ r.scMax.toNat) : RegsInv r where
  laws := by
    constructor
    case noSyncFrame => exact fun _ => h.frame
    case huntCounts => exact fun _ => ⟨h.fill, lt_of_le_of_ne h.extra hx, h.count, hm⟩
    all_goals simp [hp]
  fillRange := h.fill.le
  extraRange := h.extra
  countSplit := by rw [h.count, h.fill]
  notDoneClear _ := ⟨h.frame, h.sync, h.tmo⟩
  txRange := h.txRange
  txBusyIff := h.txBusyIff

theorem WindowRead.afterHunt (h : WindowRead r) (hp : r.scPhase = .hunt) : RegsInv (afterHunt r) := by
  unfold Machine.afterHunt
  split
  next hm => exact h.finishSync hm
  next hm =>
    split
    next => exact h.finishFail
    next hx => exact h.hunt hp hm hx

/-- After the last byte of the initial read; `SC_EXTRA` is still 0, so the bound test of R172 is that
of R173. -/
theorem WindowRead.afterFill (h : WindowRead r) (hx : r.scExtra = 0) : RegsInv (afterFill r) := by
  rw [Machine.afterFill, if_pos h.fill]
  split
  next hm => exact h.finishSync hm
  next hm =>
    split
    next => exact h.finishFail
    next hmax =>
      have hbound : r.scExtra ≠ r.scMax.toNat := by
        rw [hx]
        exact fun h0 => hmax (BitVec.eq_of_toNat_eq h0.symm)
      exact WindowRead.hunt (r := { r with scPhase := .hunt }) { h with } rfl hm hbound

theorem RegsInv.fillByte (h : RegsInv r) (hp : r.scPhase = .fill) (b : Byte) :
    RegsInv (fillByte b r) := by
  obtain ⟨hextra, hcount, hfill⟩ := h.laws.fillCounts hp
  obtain ⟨hframe, hsync, htmo⟩ := h.notDoneClear (by simp [hp])
  by_cases hlast : r.scFill + 1 = 26
  · refine WindowRead.afterFill ?_ hextra
    exact { h with
      fill := hlast
      extra := h.extraRange
      count := by simp only; omega
      frame := hframe
      sync := hsync
      tmo := htmo }
  · rw [Machine.fillByte, Machine.afterFill, if_neg hlast]
    exact { h with
      laws := by
        constructor
        case noSyncFrame => exact fun _ => hframe
        case fillCounts => exact fun _ => ⟨hextra, congrArg (· + 1) hcount, by simp only; omega⟩
        all_goals simp [hp]
      fillRange := by simp only; omega
      countSplit := by simp only; omega
      notDoneClear := fun _ => ⟨hframe, hsync, htmo⟩ }

theorem RegsInv.huntByte (h : RegsInv r) (hp : r.scPhase = .hunt) (b : Byte) :
    RegsInv (huntByte b r) := by
  obtain ⟨hfill, hextra, hcount, -⟩ := h.laws.huntCounts hp
  obtain ⟨hframe, hsync, htmo⟩ := h.notDoneClear (by simp [hp])
  refine WindowRead.afterHunt ?_ hp
  exact { h with
    fill := hfill
    extra := hextra
    count := congrArg (· + 1) hcount
    frame := hframe
    sync := hsync
    tmo := htmo }

/-! ### Steps and runs -/

theorem RegsStep.keeps_regsInv {r' : Regs} (h : RegsStep r r') (hr : RegsInv r) : RegsInv r' := by
  cases h with
  | keep => exact hr
  | setAddr a => exact hr.setAddr a
  | startScan m _ => exact hr.startScan m
  | fill b hp => exact hr.fillByte hp b
  | hunt b hp => exact hr.huntByte hp b
  | timeout _ => exact hr.timeout
  | send f _ => exact hr.send f
  | tx _ left => exact hr.advanceTx left

theorem step_keeps_stateInv {s t : State} (hs : StateInv s) (h : step s = .next t) : StateInv t := by
  obtain ⟨-, ⟨_, _, _, _, hreset⟩ | hregs⟩ := step_cases h
  · rw [StateInv, hreset]
    exact regsInv_reset
  · exact hregs.keeps_regsInv hs

theorem run_keeps_stateInv {k : Nat} {s t : State} (hs : StateInv s)
    (h : Host.Core.run Sys2Proof.core k s = .next t) : StateInv t :=
  run_keeps (fun _ _ => step_keeps_stateInv) k s t hs h

/-- Settles O40: R27 is part of an invariant that holds at reset, whatever the parameters, the channel
and the schedule are, and that every step keeps. -/
theorem reachableStatesMeetScannerLaws : Obligations.ReachableStatesMeetScannerLaws := by
  intro params rx inputs k t h
  have hinv : StateInv t := by
    refine run_keeps_stateInv ?_ h
    exact regsInv_reset
  exact hinv.laws

end Sys2Proof.Machine
end

/-! ## The reserved operations (O15; spec/30_encoding.md R81) -/

section
namespace Sys2Proof.Machine

theorem exec_reserved {i : Instr}
    (hi : i ∈ [Instr.reservedOpB, .reservedOpC, .reservedOpD, .reservedOpE, .reservedOpF]) (s : State) :
    exec i s = raiseErr .illegalOp s := by
  simp only [List.mem_cons, List.not_mem_nil, or_false] at hi
  obtain rfl | rfl | rfl | rfl | rfl := hi <;> rfl

/-- Settles O15: the five selectors by decoding, and what raising an error does in every state. -/
theorem reservedOperationsAreIllegal : Obligations.ReservedOperationsAreIllegal := by
  refine ⟨by decide, fun i hi s => ?_⟩
  rw [exec_reserved hi]
  exact raiseErr_next .illegalOp s

end Sys2Proof.Machine
end

/-! ## Operand legality (O25; spec/30_encoding.md R82) -/

section
namespace Sys2Proof.Machine

theorem legalWidth_iff (w : BitVec 3) : legalWidth w = true ↔ w.toNat ∈ [1, 2, 3, 4] := by
  simp only [legalWidth, decide_eq_true_eq, List.mem_cons, List.not_mem_nil, or_false]
  omega

theorem fieldFits_iff (off : BitVec 5) (w : BitVec 3) :
    fieldFits off w = true ↔ off.toNat + w.toNat ≤ 26 := by
  simp [fieldFits]

/-- At a legal width the only error is RANGE (R106). -/
theorem encnumDriven_err_ne_badOperand (raw : Int) (w : Nat) :
    (encnumDriven raw w).err ≠ .badOperand := by
  obtain ⟨-, -, -, -, herr⟩ := encnumDriven_spec raw w
  rw [herr]
  split <;> simp

/-- An operation that drives `e` when its operands are legal and BAD_OPERAND alone when they are not:
if `e` is no BAD_OPERAND itself, that error tells the illegal operands apart, and comes with no change
of state and no other result. -/
theorem drive_ifLegal {legal : Prop} [Decidable legal] {e : Outputs} (he : e.err ≠ .badOperand)
    (s : State) :
    ∃ t, (Host.Outcome.next (drive (if legal then e
        else { Outputs.undriven with err := .badOperand }) s) : Answer) = .next t ∧
      (t.out.err = .badOperand ↔ ¬ legal) ∧
      (t.out.err = .badOperand →
        Operates s s.regs t ∧ t.out = { Outputs.undriven with err := .badOperand }) := by
  refine ⟨_, rfl, ?_⟩
  by_cases hl : legal
  · rw [if_pos hl]
    exact ⟨iff_of_false he (not_not_intro hl), fun h => absurd h he⟩
  · rw [if_neg hl]
    exact ⟨iff_of_true rfl hl, fun _ => ⟨operates_drive _ s, rfl⟩⟩

theorem execBuild_next {n : Nat} (h : n ≤ 23) (body : Body) (s : State) :
    execBuild body n s = .next (drive (buildResult s.regs.addr body n) s) := if_pos h

theorem execBuild_refused {n : Nat} (h : 23 < n) (body : Body) (s : State) :
    execBuild body n s = .refused (.notExpressible (.countOverLanes n)) := if_neg h.not_ge

theorem execEncnum_badOperand (v : Rat) (w : BitVec 3) (s : State) :
    ∃ t, execEncnum v w s = .next t ∧ (t.out.err = .badOperand ↔ w.toNat ∉ [1, 2, 3, 4]) ∧
      (t.out.err = .badOperand →
        Operates s s.regs t ∧ t.out = { Outputs.undriven with err := .badOperand }) := by
  rw [← legalWidth_iff]
  exact drive_ifLegal (encnumDriven_err_ne_badOperand _ _) s

theorem execDecnum_badOperand (f : Frame) (off : BitVec 5) (w : BitVec 3) (s : State) :
    ∃ t, execDecnum f off w s = .next t ∧
      (t.out.err = .badOperand ↔ w.toNat ∉ [1, 2, 3, 4] ∨ ¬ off.toNat + w.toNat ≤ 26) ∧
      (t.out.err = .badOperand →
        Operates s s.regs t ∧ t.out = { Outputs.undriven with err := .badOperand }) := by
  rw [← legalWidth_iff, ← fieldFits_iff, ← not_and_or, ← Bool.and_eq_true]
  exact drive_ifLegal (by simp [Outputs.undriven]) s

/-- SCAN_START's only error is BUSY (R171). -/
theorem execScanStart_ne_badOperand (m : BitVec 16) (s : State) :
    ∃ t, execScanStart m s = .next t ∧ t.out.err ≠ .badOperand := by
  cases hb : scanBusy s.regs with
  | true => exact ⟨_, execScanStart_busy m hb, by simp⟩
  | false => exact ⟨_, execScanStart_idle m hb, by simp [Outputs.undriven]⟩

/-- Settles O25: an operation at a time. -/
theorem operandLegality : Obligations.OperandLegality :=
  ⟨fun body _ s => ⟨fun h => ⟨_, execBuild_next h body s, rfl⟩, fun h => execBuild_refused h body s⟩,
    execEncnum_badOperand, execDecnum_badOperand, execScanStart_ne_badOperand,
    fun _ _ => ⟨_, rfl, rfl⟩⟩

end Sys2Proof.Machine
end

/-! ## NOP and CFG_SET_ADDR (O14, O16; spec/40_codec.md R101, R102) -/

section
namespace Sys2Proof.Machine

/-- Settles O14: NOP drives nothing and leaves the registers at themselves. -/
theorem nopDrivesNoError : Obligations.NopDrivesNoError :=
  ⟨by decide, fun s => ⟨_, rfl, operates_driveNothing s.regs s, rfl⟩⟩

/-- Settles O16: CFG_SET_ADDR drives nothing and leaves the registers with `ADDR` written. -/
theorem cfgSetAddrWritesOnlyAddr : Obligations.CfgSetAddrWritesOnlyAddr :=
  ⟨by decide, fun _ s => ⟨_, rfl, operates_driveNothing _ s, rfl⟩⟩

end Sys2Proof.Machine
end

/-! ## Frames and their checksum (O17, O18, O19, O20; spec/40_codec.md R103 to R105, R112) -/

section
namespace Sys2Proof.Machine

/-! ### BUILD and CHECKSUM -/

/-- Settles O17: BUILD drives `buildFrame` alone, whose bytes are known one by one. -/
theorem buildAssemblesTheFrame : Obligations.BuildAssemblesTheFrame := by
  refine ⟨by decide, fun body n s hn => ⟨_, execBuild_next hn body s, operates_drive _ s, rfl, ?_⟩⟩
  exact ⟨buildFrame_marker _ _ _, buildFrame_addr _ _ _, buildFrame_body _ _ _,
    buildFrame_checks _ _ _⟩

/-- Settles O18: CHECKSUM drives `cksum` alone, which is the spec's sum. -/
theorem checksumIsTheSumOfTheOtherBytes : Obligations.ChecksumIsTheSumOfTheOtherBytes :=
  ⟨by decide, fun f s => ⟨_, rfl, operates_drive _ s, rfl, cksum_toNat f⟩⟩

/-! ### CHECK -/

/-- CHECK drives its verdict and its error, and no other result. -/
theorem checkResult_drives (f : Frame) :
    checkResult f =
      { Outputs.undriven with ok := (checkResult f).ok, err := (checkResult f).err } := by
  unfold checkResult
  split <;> rfl

/-- CHECK's verdict, in the terms of R105. -/
theorem checkResult_ok_iff (f : Frame) :
    (checkResult f).ok = true ↔ (f[25]).toNat = frameSum f % 256 := by
  rw [← last_eq_cksum, checkResult]
  split
  next h => exact iff_of_true rfl h
  next h => exact iff_of_false Bool.false_ne_true h

theorem checkResult_err (f : Frame) :
    (checkResult f).err = if (checkResult f).ok then .none else .checksumMismatch := by
  unfold checkResult
  split <;> rfl

/-- Settles O19: the verdict, the error and the lanes of `checkResult`. -/
theorem checkComparesTheChecksum : Obligations.CheckComparesTheChecksum :=
  ⟨by decide, fun f s => ⟨_, rfl, operates_drive _ s, checkResult_drives f, checkResult_ok_iff f,
    checkResult_err f⟩⟩

/-! ### The laws of R112 -/

/-- The verdict does not depend on the state. -/
theorem checksAs_iff (f : Frame) (ok : Bool) : ChecksAs f ok ↔ (checkResult f).ok = ok := by
  constructor
  · intro h
    obtain ⟨t, ht, hok⟩ := h .reset
    injection ht with ht
    rwa [← ht] at hok
  · exact fun h s => ⟨_, rfl, h⟩

theorem checksAs_true_iff (f : Frame) : ChecksAs f true ↔ (f[25]).toNat = frameSum f % 256 := by
  rw [checksAs_iff, checkResult_ok_iff]

theorem checksAs_false_iff (f : Frame) : ChecksAs f false ↔ (f[25]).toNat ≠ frameSum f % 256 := by
  rw [checksAs_iff, ← Bool.not_eq_true, checkResult_ok_iff]

/-- Writing one summed byte moves the sum by the difference of the bytes: the other terms stay. -/
theorem frameSum_set (f : Frame) (i : Nat) (h : i < 25) (b : Byte) :
    frameSum (f.set i b) + (f[i]).toNat = frameSum f + b.toNat := by
  have hsplit (g : Frame) := Finset.add_sum_erase Finset.univ
    (fun j : Fin 25 => (g[j.val]).toNat) (Finset.mem_univ ⟨i, h⟩)
  have hrest : ∑ j ∈ Finset.univ.erase (⟨i, h⟩ : Fin 25), ((f.set i b)[j.val]).toNat =
      ∑ j ∈ Finset.univ.erase (⟨i, h⟩ : Fin 25), (f[j.val]).toNat := by
    refine Finset.sum_congr rfl fun j hj => ?_
    have hne : i ≠ j.val := fun he => Finset.ne_of_mem_erase hj (Fin.ext he.symm)
    rw [Vector.getElem_set_ne _ _ hne]
  rw [frameSum, frameSum, ← hsplit f, ← hsplit (f.set i b), hrest, Vector.getElem_set_self]
  dsimp only
  omega

/-- The sum as that of a list, which an order of the bytes does not change. -/
theorem frameSum_eq_sum_take (f : Frame) : frameSum f = ((f.toList.take 25).map BitVec.toNat).sum := by
  rw [take25_eq_ofFn, List.map_ofFn, List.sum_ofFn]
  rfl

theorem frameSum_eq_of_perm {f g : Frame} (h : (g.toList.take 25).Perm (f.toList.take 25)) :
    frameSum g = frameSum f := by
  rw [frameSum_eq_sum_take, frameSum_eq_sum_take]
  exact (h.map BitVec.toNat).sum_eq

/-- CHECK reads offset 25 and the sum modulo 256, and nothing else. -/
theorem ChecksAs.congr {f g : Frame} (h : ChecksAs f true) (hlast : g[25] = f[25])
    (hsum : frameSum g % 256 = frameSum f % 256) : ChecksAs g true := by
  rw [checksAs_true_iff] at h ⊢
  rw [hlast, hsum]
  exact h

/-- A change of one byte moves the sum by less than 256, so it is seen modulo 256. -/
theorem ChecksAs.set_ne {f : Frame} {i : Nat} {b : Byte} (h : ChecksAs f true) (hi : i < 25)
    (hb : b ≠ f[i]) : ChecksAs (f.set i b) false := by
  rw [checksAs_true_iff] at h
  rw [checksAs_false_iff, Vector.getElem_set_ne _ _ hi.ne, h]
  have hsum := frameSum_set f i hi b
  have hne : b.toNat ≠ (f[i]).toNat := fun he => hb (BitVec.eq_of_toNat_eq he)
  have hb256 := b.isLt
  have hf256 := (f[i]).isLt
  omega

/-- Settles O20: (a) by BUILD's own checksum, (b) because one byte's change is less than 256, (c) and
its reorderings because CHECK reads the sum alone, (d) by evaluation. -/
theorem checksumLawsOfR112 : Obligations.ChecksumLawsOfR112 := by
  refine ⟨fun body n s hn => ?_, fun f i hi b h hb => h.set_ne hi hb,
    fun f g h hlast hsum => h.congr hlast hsum, fun f g h hlast hperm => ?_, ?_⟩
  · exact ⟨_, execBuild_next hn body s, (checksAs_true_iff _).mpr (buildFrame_checks _ _ _)⟩
  · exact h.congr hlast (congrArg (· % 256) (frameSum_eq_of_perm hperm))
  · exact (checksAs_true_iff _).mpr (by decide)

end Sys2Proof.Machine
end

/-! ## Numbers (O22, O23, O24, O26; spec/40_codec.md R106 to R109, R113) -/

section
namespace Sys2Proof.Machine

/-! ### ENCNUM -/

theorem legalWidth_iff_range (w : BitVec 3) : legalWidth w = true ↔ 1 ≤ w.toNat ∧ w.toNat ≤ 4 :=
  decide_eq_true_iff

theorem encnumResult_legal {w : BitVec 3} (h : legalWidth w = true) (tie : TieRule) (v : Rat) :
    encnumResult tie v w = encnumDriven (rawOf tie v) w.toNat := if_pos h

theorem encnumResult_illegal {w : BitVec 3} (h : ¬ legalWidth w = true) (tie : TieRule) (v : Rat) :
    encnumResult tie v w = { Outputs.undriven with err := .badOperand } := if_neg h

/-- The wire integer is a rounding of `v * 1000` in the sense of R14. -/
theorem rawOf_isRound (tie : TieRule) (v : Rat) : IsRound tie (v * 1000) (rawOf tie v) := by
  rw [rawOf_eq]
  exact roundTie_isRound tie _

/-- Settles O22: at a legal width ENCNUM drives `encnumDriven` of the rounded integer, whose lanes
`encnumDriven_spec` gives; at any other it drives BAD_OPERAND alone. -/
theorem encnumEncodesOrReports : Obligations.EncnumEncodesOrReports := by
  refine ⟨by decide, fun v w s h1 h4 => ?_, fun v w s hw => ?_⟩
  · refine ⟨_, rawOf s.params.tieRule v, rfl, operates_drive _ s, rawOf_isRound _ v, ?_⟩
    rw [drive_out, encnumResult_legal ((legalWidth_iff_range w).mpr ⟨h1, h4⟩)]
    exact ⟨rfl, encnumDriven_spec _ _⟩
  · exact ⟨_, rfl, operates_drive _ s,
      encnumResult_illegal (fun h => hw ((legalWidth_iff_range w).mp h)) _ v⟩

/-! ### Precision (R107) -/

/-- What ENCNUM's results are when it raises no error: the value on the port is the rounded integer
itself, not wrapped, and the `w` bytes carry it. -/
structure EncodesExactly (tie : TieRule) (v : Rat) (w : BitVec 3) (e : Outputs) : Prop where
  width : legalWidth w = true
  round : IsRound tie (v * 1000) (e.raw : Int)
  length : e.bytes.length = w.toNat
  value : leValue e.bytes = e.raw

theorem encnumResult_encodesExactly {tie : TieRule} {v : Rat} {w : BitVec 3}
    (h : (encnumResult tie v w).err = .none) : EncodesExactly tie v w (encnumResult tie v w) := by
  by_cases hw : legalWidth w = true
  · rw [encnumResult_legal hw] at h ⊢
    obtain ⟨hraw, hlen, -, hok, herr⟩ := encnumDriven_spec (rawOf tie v) w.toNat
    have hrange : 0 ≤ rawOf tie v ∧ rawOf tie v < 256 ^ w.toNat := by
      rw [← hok]
      by_contra hc
      simp [herr, hc] at h
    refine ⟨hw, ?_, hlen, leValue_leBytes _ _⟩
    rw [hraw, Int.emod_eq_of_lt hrange.1 hrange.2]
    exact rawOf_isRound tie v
  · rw [encnumResult_illegal hw] at h
    cases h

theorem exec_encnum_encodesExactly {v : Rat} {w : BitVec 3} {s t : State}
    (h : exec (.encnum v w) s = .next t) (he : t.out.err = .none) :
    EncodesExactly s.params.tieRule v w t.out := by
  injection h with h
  subst h
  exact encnumResult_encodesExactly he

/-- The distance in units is a thousandth of the distance in milli-units. -/
theorem abs_div_thousand_sub (r v : Rat) : |r / 1000 - v| = |r - v * 1000| / 1000 := by
  rw [show r / 1000 - v = (r - v * 1000) / 1000 by ring, abs_div, Nat.abs_ofNat]

/-- Only a number halfway between two integers is half a unit away from an integer. -/
theorem exists_halfway {x : Rat} {n : Int} (h : |(n : Rat) - x| = 1 / 2) :
    ∃ k : Int, x = k + 1 / 2 := by
  obtain h | h := eq_or_eq_neg_of_abs_eq h
  · exact ⟨n - 1, by push_cast; linarith⟩
  · exact ⟨n, by linarith⟩

/-- Half a milli-unit is 0.0005 units. -/
theorem IsRound.abs_scaled_le {tie : TieRule} {v : Rat} {n : Int} (h : IsRound tie (v * 1000) n) :
    |(n : Rat) / 1000 - v| ≤ 1 / 2000 := by
  rw [abs_div_thousand_sub]
  linarith [h.1]

/-- An integer is its own rounding. -/
theorem IsRound.eq_of_int {tie : TieRule} {x : Rat} {n k : Int} (h : IsRound tie x n) (hx : x = k) :
    n = k := by
  refine h.unique ?_
  subst hx
  simp [IsRound]

/-- Settles O23: with no error the value on the port is the rounding of `v * 1000`. -/
theorem encnumPrecisionLaw : Obligations.EncnumPrecisionLaw := by
  intro v w s t h he
  have hround := (exec_encnum_encodesExactly h he).round
  refine ⟨hround.1, hround.abs_scaled_le, fun htie => exists_halfway (n := t.out.raw) ?_⟩
  obtain htie | htie := htie
  · exact htie
  · rw [abs_div_thousand_sub] at htie
    rw [Int.cast_natCast]
    linarith

/-! ### DECNUM -/

theorem decnumResult_legal {off : BitVec 5} {w : BitVec 3} (hw : legalWidth w = true)
    (hf : off.toNat + w.toNat ≤ 26) (f : Frame) :
    decnumResult f off w = { Outputs.undriven with
      raw := leValue (fieldBytes f off.toNat w.toNat)
      scaled := scaledOf (leValue (fieldBytes f off.toNat w.toNat)) } :=
  if_pos (Bool.and_eq_true_iff.mpr ⟨hw, (fieldFits_iff off w).mpr hf⟩)

theorem decnumResult_illegal {off : BitVec 5} {w : BitVec 3}
    (h : ¬ legalWidth w = true ∨ 26 < off.toNat + w.toNat) (f : Frame) :
    decnumResult f off w = { Outputs.undriven with err := .badOperand } := by
  refine if_neg fun hc => ?_
  obtain ⟨hw, hf⟩ := Bool.and_eq_true_iff.mp hc
  exact h.elim (· hw) ((fieldFits_iff off w).mp hf).not_gt

/-- Settles O24: the field's value is `le_value`, which is the sum; an illegal field drives BAD_OPERAND
alone. -/
theorem decnumDecodesOrReports : Obligations.DecnumDecodesOrReports := by
  refine ⟨by decide, fun f off w s h1 h4 hf => ?_, fun f off w s h => ?_⟩
  · refine ⟨_, rfl, operates_drive _ s, ?_⟩
    rw [drive_out, decnumResult_legal ((legalWidth_iff_range w).mpr ⟨h1, h4⟩) hf]
    exact ⟨rfl, leValue_fieldBytes f _ _ hf, scaledOf_eq _⟩
  · rw [← legalWidth_iff_range] at h
    exact ⟨_, rfl, operates_drive _ s, decnumResult_illegal h f⟩

/-! ### The round trip (R113) -/

/-- A field that holds `bytes`, byte by byte, reads as `bytes`. -/
theorem fieldBytes_eq {f : Frame} {off w : Nat} {bytes : List Byte} (hf : off + w ≤ 26)
    (hlen : bytes.length = w) (h : ∀ i, i < w → f.toList.getD (off + i) 0 = bytes.getD i 0) :
    fieldBytes f off w = bytes := by
  have hl := fieldBytes_length f off w hf
  refine List.ext_getElem (hl.trans hlen.symm) fun i h1 h2 => ?_
  rw [← List.getD_eq_getElem _ 0 h1, ← List.getD_eq_getElem _ 0 h2,
    fieldBytes_getD f off w i (hl ▸ h1)]
  exact h i (hl ▸ h1)

/-- Settles O26: DECNUM reads ENCNUM's own bytes back, so its raw value is the rounding of
`v * 1000`. -/
theorem numberRoundTrip : Obligations.NumberRoundTrip := by
  intro v w off f s t h he hf hbytes
  obtain ⟨hw, hround, hlen, hvalue⟩ := exec_encnum_encodesExactly h he
  refine ⟨_, rfl, ?_⟩
  rw [drive_out, decnumResult_legal hw hf, fieldBytes_eq hf hlen hbytes, hvalue, scaledOf_eq]
  refine ⟨rfl, rfl, hround.abs_scaled_le, fun ⟨k, hk⟩ => ?_⟩
  have hraw : (t.out.raw : Rat) = k := by exact_mod_cast hround.eq_of_int hk
  show (t.out.raw : Rat) / 1000 = v
  rw [hraw, ← hk, mul_div_cancel_right₀ v (by norm_num)]

end Sys2Proof.Machine
end

/-! ## SEND (O27; spec/40_codec.md R110) -/

section
namespace Sys2Proof.Machine

/-- Settles O27: an idle transmitter takes the frame, a busy one raises BUSY. -/
theorem sendStartsOrReportsBusy : Obligations.SendStartsOrReportsBusy := by
  refine ⟨by decide, fun f s h => ?_, fun f s h => ?_⟩
  · exact ⟨_, execSend_idle f h, operates_driveNothing _ s, rfl⟩
  · rw [show exec (.send f) s = raiseErr .busy s from execSend_busy f h]
    exact raiseErr_next .busy s

end Sys2Proof.Machine
end

/-! ## The wire commands without an operand and with a raw payload (O54, O55;
spec/41_wire_commands.md R136 to R148) -/

section
namespace Sys2Proof.Machine

/-- Settles O54: ReadConfig is the BUILD of its code with an empty payload. -/
theorem readConfigBuildsItsFrame : Obligations.ReadConfigBuildsItsFrame := fun s =>
  ⟨_, rfl, operates_buildCommand codeReadConfig [] s, buildCommand_frame codeReadConfig [] s⟩

/-- Each of the twelve commands is `rawCommand` with the code listed beside it. -/
theorem exec_payloadCommand {c : (List Byte → Instr) × Byte} (hc : c ∈ payloadCommands)
    (p : List Byte) (s : State) : exec (c.1 p) s = rawCommand c.2 p s := by
  simp only [payloadCommands, List.cons_append, List.nil_append, List.mem_cons, List.not_mem_nil,
    or_false] at hc
  obtain rfl | rfl | rfl | rfl | rfl | rfl | rfl | rfl | rfl | rfl | rfl | rfl := hc <;> rfl

/-- Settles O55: each of the twelve is `rawCommand`, which builds its frame for a payload that fits
the port. -/
theorem rawPayloadCommandsBuildTheirFrames : Obligations.RawPayloadCommandsBuildTheirFrames := by
  intro c hc p s hp
  refine ⟨buildCommand c.2 p s, ?_, operates_buildCommand c.2 p s, buildCommand_frame c.2 p s⟩
  rw [exec_payloadCommand hc, rawCommand_next hp]

end Sys2Proof.Machine
end

/-! ## SCAN_START and RX_TIMEOUT (O30, O34; spec/42_scanner.md R171, R176) -/

section
namespace Sys2Proof.Machine

/-- Settles O30: outside FILL and HUNT the registers become `startScan`'s and nothing is driven; in
them BUSY is raised. -/
theorem scanStartBeginsOrReportsBusy : Obligations.ScanStartBeginsOrReportsBusy := by
  refine ⟨by decide, fun m s hp => ?_, fun m s hp => ?_⟩
  · exact ⟨_, execScanStart_idle m (scanBusy_false hp), rfl,
      operates_driveNothing (startScan m s.regs) s⟩
  · rw [show exec (.scanStart m) s = raiseErr .busy s from
      execScanStart_busy m ((scanBusy_iff _).mpr hp)]
    exact raiseErr_next .busy s

/-- Settles O34: the pulse writes the registers of a busy scan alone, and is ignored by any other. -/
theorem timeoutEndsABusyScan : Obligations.TimeoutEndsABusyScan := by
  refine ⟨fun s hp => ?_, fun s hp => execRxTimeout_ignored (scanBusy_false hp)⟩
  exact ⟨_, execRxTimeout_busy ((scanBusy_iff _).mpr hp), receivesOnly_take _ _ s, rfl, rfl⟩

end Sys2Proof.Machine
end

/-! ## A received byte (O31, O32; spec/42_scanner.md R172 to R175) -/

section
namespace Sys2Proof.Machine

section

variable {b : Byte} {r : Regs}

/-- The window byte by byte: each moves one place down, and the new one comes last. -/
theorem TakesByte.window {r' : Regs} (h : TakesByte b r r') :
    (∀ i (_ : i < 25), r'.scWin[i] = r.scWin[i + 1]) ∧ r'.scWin[25] = b := by
  rw [h.win]
  exact ⟨shiftIn_below _ _, shiftIn_last _ _⟩

/-- The registers that an ending of the scan writes (R174, R175): the phase and the two results. -/
def EndsAs (phase : ScPhase) (frame : Frame) (sync : Bool) (r : Regs) : Prop :=
  r.scPhase = phase ∧ r.scFrame = frame ∧ r.scSync = sync

/-! ### FILL -/

/-- Before the 26th byte nothing is tested. -/
theorem fillByte_notLast (hp : r.scPhase = .fill) (h : r.scFill + 1 ≠ 26) :
    EndsAs .fill r.scFrame r.scSync (fillByte b r) := by
  rw [fillByte_eq, if_neg h]
  exact ⟨hp, rfl, rfl⟩

theorem fillByte_marker (h : r.scFill + 1 = 26) (hm : (fillByte b r).scWin[0] = 0xAA) :
    EndsAs .done (fillByte b r).scWin true (fillByte b r) := by
  rw [(fillByte_takes b r).win] at hm ⊢
  rw [fillByte_eq, if_pos h, if_pos hm]
  exact ⟨rfl, rfl, rfl⟩

/-- No marker, and a bound of no extra byte. -/
theorem fillByte_noExtra (h : r.scFill + 1 = 26) (hm : (fillByte b r).scWin[0] ≠ 0xAA)
    (hx : r.scMax = 0) : EndsAs .done zeroFrame false (fillByte b r) := by
  rw [(fillByte_takes b r).win] at hm
  rw [fillByte_eq, if_pos h, if_neg hm, if_pos hx]
  exact ⟨rfl, rfl, rfl⟩

/-- No marker, and extra bytes allowed. -/
theorem fillByte_toHunt (h : r.scFill + 1 = 26) (hm : (fillByte b r).scWin[0] ≠ 0xAA)
    (hx : r.scMax ≠ 0) : EndsAs .hunt r.scFrame r.scSync (fillByte b r) := by
  rw [(fillByte_takes b r).win] at hm
  rw [fillByte_eq, if_pos h, if_neg hm, if_neg hx]
  exact ⟨rfl, rfl, rfl⟩

/-! ### HUNT -/

theorem huntByte_marker (hm : (huntByte b r).scWin[0] = 0xAA) :
    EndsAs .done (huntByte b r).scWin true (huntByte b r) := by
  rw [(huntByte_takes b r).win] at hm ⊢
  rw [huntByte_eq, if_pos hm]
  exact ⟨rfl, rfl, rfl⟩

/-- No marker, and the bound is used up. -/
theorem huntByte_lastExtra (hm : (huntByte b r).scWin[0] ≠ 0xAA)
    (hx : (huntByte b r).scExtra = r.scMax.toNat) :
    EndsAs .done zeroFrame false (huntByte b r) := by
  rw [(huntByte_takes b r).win] at hm
  rw [(huntByte_counts b r).2] at hx
  rw [huntByte_eq, if_neg hm, if_pos hx]
  exact ⟨rfl, rfl, rfl⟩

/-- No marker, and extra bytes left. -/
theorem huntByte_goesOn (hp : r.scPhase = .hunt) (hm : (huntByte b r).scWin[0] ≠ 0xAA)
    (hx : (huntByte b r).scExtra ≠ r.scMax.toNat) :
    EndsAs .hunt r.scFrame r.scSync (huntByte b r) := by
  rw [(huntByte_takes b r).win] at hm
  rw [(huntByte_counts b r).2] at hx
  rw [huntByte_eq, if_neg hm, if_neg hx]
  exact ⟨hp, rfl, rfl⟩

end

/-! ### The two obligations -/

/-- Settles O31: the byte is pulled and shifted in, and the scan goes on or ends in one of four ways. -/
theorem fillTakesOneByte : Obligations.FillTakesOneByte := by
  intro b rest s hp hrx
  obtain ⟨t, ht, hrest, hregs, honly⟩ := execRxByteFill_takes hp (.inl hrx)
  have htakes := fillByte_takes b s.regs
  obtain ⟨hfill, hextra⟩ := fillByte_counts b s.regs
  obtain ⟨hbelow, hlast⟩ := htakes.window
  refine ⟨t, ht, hrest, honly, ?_⟩
  rw [hregs]
  exact ⟨htakes.keeps, hbelow, hlast, hfill, htakes.count, hextra,
    fillByte_notLast hp, fillByte_marker, fillByte_noExtra, fillByte_toHunt⟩

/-- Settles O32: the byte is pulled and shifted in, and the scan goes on or ends in one of three ways. -/
theorem huntTakesOneByte : Obligations.HuntTakesOneByte := by
  intro b rest s hp hrx
  obtain ⟨t, ht, hrest, hregs, honly⟩ := execRxByteHunt_takes hp (.inl hrx)
  have htakes := huntByte_takes b s.regs
  obtain ⟨hfill, hextra⟩ := huntByte_counts b s.regs
  obtain ⟨hbelow, hlast⟩ := htakes.window
  refine ⟨t, ht, hrest, honly, ?_⟩
  rw [hregs]
  exact ⟨htakes.keeps, hbelow, hlast, hfill, htakes.count, hextra,
    huntByte_marker, huntByte_lastExtra, huntByte_goesOn hp⟩

end Sys2Proof.Machine
end

/-! ## The scan as a function: the first marker, and recovery (O36, O37; spec/42_scanner.md R179 to
R181) -/

section
namespace Sys2Proof.Machine

/-- The loop from position `p` stops at the first marker, `k` positions on. -/
theorem scanFrom_firstMarker (tmo : Bool) {k left : Nat} (p : Nat) {bytes : List Byte}
    (hk : k ≤ left) (hlen : 26 + k ≤ bytes.length) (hm : bytes[k]? = some marker)
    (hfirst : ∀ q, q < k → bytes[q]? ≠ some marker) :
    scanFrom tmo left p bytes = ⟨.sync, (bytes.drop k).take 26, 26 + (p + k)⟩ := by
  induction k generalizing left p bytes with
  | zero => exact scanFrom_sync tmo left p bytes hlen (by rw [List.head?_eq_getElem?, hm])
  | succ k ih =>
    obtain ⟨left, rfl⟩ := Nat.exists_eq_add_of_le' (k.succ_pos.trans_le hk)
    have h0 : bytes.head? ≠ some marker := List.head?_eq_getElem? ▸ hfirst 0 k.succ_pos
    have htail (q : Nat) (hq : q < k) : bytes.tail[q]? ≠ some marker :=
      List.getElem?_tail ▸ hfirst (q + 1) (by omega)
    rw [scanFrom_next tmo left p bytes (by omega) h0, List.drop_one,
      ih (p + 1) (by omega) (by rw [List.length_tail]; omega) (by rw [List.getElem?_tail, hm]) htail,
      List.drop_tail, Nat.add_assoc p, Nat.add_comm 1]

/-- Without a marker in any of its positions the loop ends at the last of them. -/
theorem scanFrom_noMarker (tmo : Bool) {left : Nat} (p : Nat) {bytes : List Byte}
    (hlen : 26 + left ≤ bytes.length) (hno : ∀ q, q ≤ left → bytes[q]? ≠ some marker) :
    scanFrom tmo left p bytes = ⟨.fail, zeroFrame.toList, 26 + (p + left)⟩ := by
  induction left generalizing p bytes with
  | zero => exact scanFrom_fail tmo p bytes hlen (List.head?_eq_getElem? ▸ hno 0 le_rfl)
  | succ left ih =>
    have h0 : bytes.head? ≠ some marker := List.head?_eq_getElem? ▸ hno 0 (Nat.zero_le _)
    have htail (q : Nat) (hq : q ≤ left) : bytes.tail[q]? ≠ some marker :=
      List.getElem?_tail ▸ hno (q + 1) (by omega)
    rw [scanFrom_next tmo left p bytes (by omega) h0, List.drop_one,
      ih (p + 1) (by rw [List.length_tail]; omega) htail, Nat.add_assoc p, Nat.add_comm 1]

/-- Settles O37: the loop of R178, from position 0. -/
theorem scanLocksOnTheFirstMarker : Obligations.ScanLocksOnTheFirstMarker := by
  refine fun bytes m tmo => ⟨fun p hp hlen hm hfirst => ?_, fun hlen hno => ?_⟩
  · rw [scan, scanFrom_firstMarker tmo 0 hp hlen hm hfirst, Nat.zero_add]
  · rw [scan, scanFrom_noMarker tmo 0 hlen hno, Nat.zero_add]

/-- No position inside the garbage holds the marker. -/
theorem garbage_getElem?_ne {g : List Byte} {x : Byte} (hg : x ∉ g) (rest : List Byte) {q : Nat}
    (hq : q < g.length) : (g ++ rest)[q]? ≠ some x := by
  rw [List.getElem?_append_left hq]
  exact fun h => hg (List.mem_of_getElem? h)

/-- Dropping no more bytes than `g` and `F` hold leaves an end of `F`, and `r` whole. -/
theorem drop_garbage_frame (g F r : List Byte) {n : Nat} (hn : n ≤ g.length + F.length) :
    (g ++ F ++ r).drop n = g.drop n ++ (F.drop (n - g.length) ++ r) := by
  rw [List.drop_append_of_le_length (by simpa using hn), List.drop_append, List.append_assoc]

/-- Settles O36, by the laws of O37: the first marker is the frame's, at position `g.length`, and a bound
below that ends the scan before the frame's last byte. -/
theorem scanRecoversAfterGarbage : Obligations.ScanRecoversAfterGarbage := by
  intro g F r m tmo hg hF hhead
  obtain ⟨hsync, hfail⟩ := scanLocksOnTheFirstMarker (g ++ F ++ r) m tmo
  have hgarbage (q : Nat) (hq : q < g.length) : (g ++ F ++ r)[q]? ≠ some 0xAA :=
    List.append_assoc g F r ▸ garbage_getElem?_ne hg (F ++ r) hq
  have hlen : (g ++ F ++ r).length = g.length + 26 + r.length := by simp [hF, Nat.add_assoc]
  refine ⟨fun hk => ⟨?_, ?_⟩, fun hk => ⟨?_, F.drop (26 + m - g.length), ?_, ?_, ?_⟩⟩
  · have hmarker : (g ++ F ++ r)[g.length]? = some 0xAA := by
      rw [List.append_assoc, List.getElem?_append_right le_rfl, Nat.sub_self,
        ← List.head?_eq_getElem?, List.head?_append, hhead, Option.some_or]
    rw [hsync g.length hk (by omega) hmarker hgarbage, List.append_assoc, List.drop_left,
      ← hF, List.take_left]
  · exact List.drop_left' (by rw [List.length_append, hF, Nat.add_comm])
  · exact hfail (by omega) fun q hq => hgarbage q (by omega)
  · exact List.ne_nil_of_length_pos (by rw [List.length_drop]; omega)
  · exact List.drop_suffix _ F
  · rw [drop_garbage_frame g F r (by omega)]
    exact List.suffix_append _ _

end Sys2Proof.Machine
end

/-! ## ACK_MATCH and STATUS_DECODE's verdicts (O46, O47; spec/43_validators.md R200 to R203) -/

section
namespace Sys2Proof.Machine

/-- A class that names the first failing test is NONE exactly when the test passes and so do the ones
after it. -/
theorem errUnless_eq_none_iff {test : Prop} [Decidable test] {e later : ErrCode} (he : e ≠ .none) :
    (if ¬ test then e else later) = .none ↔ test ∧ later = .none := by
  by_cases h : test <;> simp [h, he]

/-! ### ACK_MATCH -/

theorem ackMatched_iff (addr : Byte) (f : Frame) :
    ackMatched addr f = true ↔ f[0] = marker ∧ f[1] = addr ∧ f[2] = returnInfoCode :=
  decide_eq_true_iff

/-- The sentinel of an unmatched frame is not the code that means success. -/
theorem ackOf_eq_ackOk_iff (addr : Byte) (f : Frame) :
    ackOf addr f = ackOk ↔ ackMatched addr f = true ∧ f[3] = ackOk := by
  unfold ackOf
  by_cases h : ackMatched addr f = true
  · simp only [h, if_true, true_and]
  · rw [if_neg h]
    exact iff_of_false (by decide) fun hc => h hc.1

/-- R201's tests are R200's, with the ack code last. -/
theorem ackClass_eq_none_iff (addr : Byte) (f : Frame) :
    ackClass addr f = .none ↔ ackOf addr f = ackOk := by
  rw [ackOf_eq_ackOk_iff, ackMatched_iff, ackClass, errUnless_eq_none_iff (by decide),
    errUnless_eq_none_iff (by decide), errUnless_eq_none_iff (by decide),
    errUnless_eq_none_iff (by decide), and_assoc, and_assoc, eq_self, and_true]

/-- Settles O46: ACK_MATCH drives `ackMatchResult` alone, whose error is NONE exactly when its ack code
means success. -/
theorem ackMatchJudgesAFrame : Obligations.AckMatchJudgesAFrame := by
  refine ⟨by decide, fun f s => ⟨_, rfl, operates_drive _ s, rfl, ackMatched_iff _ f, rfl,
    decide_eq_true_iff, rfl, ?_⟩⟩
  exact (ackClass_eq_none_iff _ f).trans decide_eq_true_iff.symm

/-! ### STATUS_DECODE -/

theorem execStatusDecode_next {s : State} (h : layoutAdmitted s.params.layout = true) (f : Frame) :
    execStatusDecode f s = .next (drive (statusDecodeResult s.regs.addr s.params.layout f) s) :=
  if_pos h

theorem execStatusDecode_refused {s : State} (h : layoutAdmitted s.params.layout = false) (f : Frame) :
    execStatusDecode f s = .refused .layoutNotAdmitted :=
  if_neg (Bool.not_eq_true _ ▸ h)

theorem statusValid_iff (addr : Byte) (f : Frame) :
    statusValid addr f = true ↔ f[0] = marker ∧ f[1] = addr ∧ f[25] = cksum f :=
  decide_eq_true_iff

/-- R203's tests are R202's. -/
theorem statusClass_eq_none_iff (addr : Byte) (f : Frame) :
    statusClass addr f = .none ↔ statusValid addr f = true := by
  rw [statusValid_iff, statusClass, errUnless_eq_none_iff (by decide),
    errUnless_eq_none_iff (by decide), errUnless_eq_none_iff (by decide), eq_self, and_true]

/-- Settles O47: under an admitted layout STATUS_DECODE drives `statusDecodeResult` alone; `cksum` is
the spec's sum. -/
theorem statusDecodeJudgesAFrame : Obligations.StatusDecodeJudgesAFrame := by
  refine ⟨by decide, fun f s hl => ⟨_, execStatusDecode_next hl f, operates_drive _ s, rfl, rfl, ?_⟩⟩
  simp only [ne_eq, ← last_eq_cksum]
  exact ⟨statusValid_iff _ f, rfl, statusClass_eq_none_iff _ f⟩

end Sys2Proof.Machine
end

/-! ## STATUS_LAYOUT's well-formedness (O49; spec/43_validators.md R212) -/

section
namespace Sys2Proof.Machine

/-! ### The checks, one by one -/

theorem numericWidth_iff (k : FieldAt) : numericWidth k = true ↔ k.width ∈ [1, 2, 3, 4] := by
  simp only [numericWidth, decide_eq_true_eq, List.mem_cons, List.not_mem_nil, or_false]
  omega

theorem fieldInArea_iff (k : FieldAt) :
    fieldInArea k = true ↔ 3 ≤ k.off ∧ k.off + k.width ≤ 25 :=
  decide_eq_true_iff

/-- A field that has an offset lies in the area exactly when its first and its last offset do. -/
theorem fieldInArea_iff_offsets {k : FieldAt} (h : 0 < k.width) :
    fieldInArea k = true ↔ ∀ o, k.off ≤ o → o < k.off + k.width → 3 ≤ o ∧ o ≤ 24 := by
  rw [fieldInArea_iff]
  constructor
  · intro _ o _ _
    omega
  · intro hall
    have hfirst := hall k.off le_rfl (by omega)
    have hlast := hall (k.off + k.width - 1) (by omega) (by omega)
    omega

/-- If two fields that have offsets share one, they share the first offset of one of them. -/
theorem fieldsApart_iff_offsets {j k : FieldAt} (hj : 0 < j.width) (hk : 0 < k.width) :
    fieldsApart j k = true ↔
      ∀ o, ¬(j.off ≤ o ∧ o < j.off + j.width ∧ k.off ≤ o ∧ o < k.off + k.width) := by
  rw [fieldsApart, decide_eq_true_iff]
  constructor
  · intro _ o _
    omega
  · intro hall
    have hshared := hall (max j.off k.off)
    omega

theorem allApart_iff_pairwise (ks : List FieldAt) :
    allApart ks = true ↔ ks.Pairwise fun j k => fieldsApart j k = true := by
  induction ks with
  | nil => exact iff_of_true rfl .nil
  | cons k ks ih => rw [allApart, Bool.and_eq_true, List.all_eq_true, ih, List.pairwise_cons]

/-! ### The layout -/

theorem layoutAdmitted_iff (l : StatusLayout) :
    layoutAdmitted l = true ↔
      (∀ k ∈ l.status :: numberFields l, fieldInArea k = true) ∧ l.status.width = 1 ∧
        (∀ k ∈ numberFields l, k.width ∈ [1, 2, 3, 4]) ∧
        (l.status :: numberFields l).Pairwise fun j k => fieldsApart j k = true := by
  simp only [layoutAdmitted, Bool.and_eq_true, decide_eq_true_eq, List.all_eq_true,
    allApart_iff_pairwise, numericWidth_iff, and_assoc]

/-- With R212's widths no field is empty. -/
theorem layout_width_pos {l : StatusLayout} (hs : l.status.width = 1)
    (hn : ∀ k ∈ numberFields l, k.width ∈ [1, 2, 3, 4]) :
    ∀ k ∈ l.status :: numberFields l, 0 < k.width := by
  intro k hk
  obtain rfl | hk := List.mem_cons.mp hk
  · omega
  · exact Nat.pos_of_ne_zero fun h0 => absurd (hn k hk) (by rw [h0]; decide)

/-- R212 in terms of offsets. The model compares the ends of fields; for fields that are not empty this
is the same. -/
theorem layoutAdmitted_iff_offsets (l : StatusLayout) :
    layoutAdmitted l = true ↔
      (∀ k ∈ l.status :: numberFields l, ∀ o, k.off ≤ o → o < k.off + k.width → 3 ≤ o ∧ o ≤ 24) ∧
        l.status.width = 1 ∧ (∀ k ∈ numberFields l, k.width ∈ [1, 2, 3, 4]) ∧
        (l.status :: numberFields l).Pairwise fun j k =>
          ∀ o, ¬(j.off ≤ o ∧ o < j.off + j.width ∧ k.off ≤ o ∧ o < k.off + k.width) := by
  rw [layoutAdmitted_iff, and_left_comm, and_left_comm (b := l.status.width = 1)]
  refine and_congr_right fun hs => ?_
  rw [and_left_comm, and_left_comm (b := ∀ k ∈ numberFields l, k.width ∈ [1, 2, 3, 4])]
  refine and_congr_right fun hn => ?_
  have hpos := layout_width_pos hs hn
  exact and_congr (forall₂_congr fun k hk => fieldInArea_iff_offsets (hpos k hk))
    (List.Pairwise.iff_of_mem fun hj hk => fieldsApart_iff_offsets (hpos _ hj) (hpos _ hk))

/-- Settles O49: the checks in terms of offsets; STATUS_DECODE's own test; the default by evaluation. -/
theorem layoutAdmission : Obligations.LayoutAdmission :=
  ⟨layoutAdmitted_iff_offsets, fun f _ h => execStatusDecode_refused h f, by decide⟩

end Sys2Proof.Machine
end

/-! ## The fields of the status snapshot (O48; spec/43_validators.md R204 to R209) -/

section
namespace Sys2Proof.Machine

/-! ### The status byte -/

theorem byteAt_eq_getElem (f : Frame) {i : Nat} (h : i < 26) : byteAt f i = f[i] := by
  simp [byteAt, h]

/-- A bit of a byte, as a digit of its value. -/
theorem getLsbD_iff_div_mod (b : Byte) (i : Nat) :
    b.getLsbD i = true ↔ b.toNat / 2 ^ i % 2 = 1 := by
  rw [BitVec.getLsbD, Nat.testBit_eq_decide_div_mod_eq, decide_eq_true_iff]

/-- Bits 3:2 of a byte, compared with a number of two bits. -/
theorem extractLsb_mode_eq_iff (b : Byte) (m : BitVec 2) :
    b.extractLsb 3 2 = m ↔ b.toNat / 4 % 4 = m.toNat := by
  rw [← BitVec.toNat_inj, BitVec.extractLsb_toNat, Nat.shiftRight_eq_div_pow]

theorem outputModeOf_eq (b : Byte) :
    outputModeOf b =
      if b.toNat / 4 % 4 = 1 then .cv else if b.toNat / 4 % 4 = 2 then .cc else .ur := by
  simp only [outputModeOf, extractLsb_mode_eq_iff]
  rfl

theorem fanSpeedOf_eq (b : Byte) : fanSpeedOf b = b.toNat / 16 % 8 := by
  rw [fanSpeedOf, BitVec.extractLsb_toNat, Nat.shiftRight_eq_div_pow]

/-- Bit 7 is the byte's highest, so no higher digit has to be cut off. -/
theorem operationStateOf_eq (b : Byte) :
    operationStateOf b = if b.toNat / 128 = 1 then .remote else .frontPanel := by
  have hb := b.isLt
  have hbit : b.getLsbD 7 = true ↔ b.toNat / 128 = 1 := by
    rw [getLsbD_iff_div_mod]
    omega
  simp only [operationStateOf, hbit]

/-! ### Numeric fields -/

/-- `le_value` of a field in the frame's body is the sum of its bytes' weights (R208). -/
theorem rawField_eq_sum (f : Frame) {k : FieldAt} (h : fieldInArea k = true) :
    rawField f k =
      ∑ i ∈ Finset.range k.width, (f.toList.getD (k.off + i) 0).toNat * 256 ^ i := by
  obtain ⟨-, hend⟩ := (fieldInArea_iff k).mp h
  exact leValue_fieldBytes f k.off k.width (by omega)

/-- Settles O48: each field of the status byte by its own lemma; a numeric field, which an admitted
layout keeps inside the frame, is the sum, and its value that sum over 1000. -/
theorem snapshotFields : Obligations.SnapshotFields := by
  intro f l b raw hl hb hraw
  obtain ⟨harea, -⟩ := (layoutAdmitted_iff l).mp hl
  simp only [List.forall_mem_cons, numberFields] at harea
  obtain ⟨-, hmeasI, hmeasV, htgtI, hmaxV, htgtV, -⟩ := harea
  have hnum {k : FieldAt} (hk : fieldInArea k = true) : rawField f k = raw k :=
    (rawField_eq_sum f hk).trans (hraw k).symm
  have hval {k : FieldAt} (hk : fieldInArea k = true) :
      scaledOf (rawField f k) = (raw k : Rat) / 1000 := by rw [hnum hk, scaledOf_eq]
  subst hb
  have hbit0 := getLsbD_iff_div_mod (byteAt f l.status.off) 0
  rw [pow_zero, Nat.div_one] at hbit0
  exact ⟨byteAt_eq_getElem f (by decide), byteAt_eq_getElem f (by decide), hbit0,
    getLsbD_iff_div_mod _ 1, outputModeOf_eq _, fanSpeedOf_eq _, operationStateOf_eq _,
    hnum hmeasI, hnum hmeasV, hnum htgtI, hnum htgtV, hnum hmaxV,
    hval hmeasI, hval hmeasV, hval htgtI, hval htgtV, hval hmaxV⟩

end Sys2Proof.Machine
end

/-! ## The error codes each operation drives (O45; spec/60_exceptions.md R242) -/

section
namespace Sys2Proof.Machine

/-! ### The shape of the proofs -/

/-- An operation that answers the state `u`, with the error `e` on its port, drives the code of `e`. -/
theorem code_mem_of_next {u t : State} {codes : List (BitVec 4)}
    (h : (Host.Outcome.next u : Answer) = .next t) (e : ErrCode) (hu : u.out.err = e)
    (he : e.code ∈ codes) : t.out.err.code ∈ codes := by
  injection h with h
  rw [← h, hu]
  exact he

/-- Operations that drive one code only: one run of one of them attains it. -/
theorem drivesExactly_single {ops : Instr → Prop} {c : BitVec 4}
    (only : ∀ i s t, ops i → exec i s = .next t → t.out.err.code ∈ [c])
    (runs : ∃ i s t, ops i ∧ exec i s = .next t) : DrivesExactly ops [c] := by
  refine ⟨only, fun c' hc => ?_⟩
  obtain ⟨i, s, t, hi, ht⟩ := runs
  rw [List.mem_singleton.mp hc]
  exact ⟨i, s, t, hi, ht, List.mem_singleton.mp (only i s t hi ht)⟩

/-! ### The codec -/

theorem nop_drivesExactly : DrivesExactly (· = .nop) [0] :=
  drivesExactly_single
    (by rintro _ s t rfl h; exact code_mem_of_next h .none rfl (by decide))
    ⟨.nop, .reset, _, rfl, rfl⟩

theorem cfgSetAddr_drivesExactly : DrivesExactly (fun i => ∃ a, i = .cfgSetAddr a) [0] :=
  drivesExactly_single
    (by rintro _ s t ⟨a, rfl⟩ h; exact code_mem_of_next h .none rfl (by decide))
    ⟨.cfgSetAddr 0, .reset, _, ⟨_, rfl⟩, rfl⟩

theorem build_drivesExactly : DrivesExactly (fun i => ∃ body n, i = .build body n) [0] := by
  refine drivesExactly_single ?_ ⟨.build (bodyOf []) 0, .reset, _, ⟨_, _, rfl⟩, rfl⟩
  rintro _ s t ⟨body, n, rfl⟩ h
  rcases le_or_gt n 23 with hn | hn
  · exact code_mem_of_next ((execBuild_next hn body s).symm.trans h) .none rfl (by decide)
  · cases (execBuild_refused hn body s).symm.trans h

theorem checksum_drivesExactly : DrivesExactly (fun i => ∃ f, i = .checksum f) [0] :=
  drivesExactly_single
    (by rintro _ s t ⟨f, rfl⟩ h; exact code_mem_of_next h .none rfl (by decide))
    ⟨.checksum zeroFrame, .reset, _, ⟨_, rfl⟩, rfl⟩

theorem checkResult_code_mem (f : Frame) : (checkResult f).err.code ∈ [0, 4] := by
  rw [checkResult_err]
  split <;> decide

theorem check_drivesExactly : DrivesExactly (fun i => ∃ f, i = .check f) [0, 4] := by
  constructor
  · rintro _ s t ⟨f, rfl⟩ h
    exact code_mem_of_next h _ rfl (checkResult_code_mem f)
  · simp only [List.forall_mem_cons]
    exact ⟨⟨.check zeroFrame, .reset, _, ⟨_, rfl⟩, rfl, by decide⟩,
      ⟨.check (zeroFrame.set 25 1), .reset, _, ⟨_, rfl⟩, rfl, by decide⟩, List.forall_mem_nil _⟩

/-- RANGE or nothing at a legal width, BAD_OPERAND at any other (R106). -/
theorem encnumResult_code_mem (tie : TieRule) (v : Rat) (w : BitVec 3) :
    (encnumResult tie v w).err.code ∈ [0, 6, 7] := by
  by_cases hw : legalWidth w = true
  · obtain ⟨-, -, -, -, herr⟩ := encnumDriven_spec (rawOf tie v) w.toNat
    rw [encnumResult_legal hw, herr]
    split <;> decide
  · rw [encnumResult_illegal hw]
    decide

theorem encnum_drivesExactly : DrivesExactly (fun i => ∃ v w, i = .encnum v w) [0, 6, 7] := by
  constructor
  · rintro _ s t ⟨v, w, rfl⟩ h
    exact code_mem_of_next h _ rfl (encnumResult_code_mem _ v w)
  · simp only [List.forall_mem_cons]
    exact ⟨⟨.encnum 0 1, .reset, _, ⟨_, _, rfl⟩, rfl, by decide⟩,
      ⟨.encnum 1 1, .reset, _, ⟨_, _, rfl⟩, rfl, by decide⟩,
      ⟨.encnum 0 0, .reset, _, ⟨_, _, rfl⟩, rfl, by decide⟩, List.forall_mem_nil _⟩

theorem decnumResult_err (f : Frame) (off : BitVec 5) (w : BitVec 3) :
    (decnumResult f off w).err =
      if legalWidth w && fieldFits off w then .none else .badOperand := by
  unfold decnumResult
  split <;> rfl

theorem decnumResult_code_mem (f : Frame) (off : BitVec 5) (w : BitVec 3) :
    (decnumResult f off w).err.code ∈ [0, 7] := by
  rw [decnumResult_err]
  split <;> decide

theorem decnum_drivesExactly : DrivesExactly (fun i => ∃ f off w, i = .decnum f off w) [0, 7] := by
  constructor
  · rintro _ s t ⟨f, off, w, rfl⟩ h
    exact code_mem_of_next h _ rfl (decnumResult_code_mem f off w)
  · simp only [List.forall_mem_cons]
    exact ⟨⟨.decnum zeroFrame 0 1, .reset, _, ⟨_, _, _, rfl⟩, rfl, by decide⟩,
      ⟨.decnum zeroFrame 0 0, .reset, _, ⟨_, _, _, rfl⟩, rfl, by decide⟩, List.forall_mem_nil _⟩

/-! ### SEND and SCAN_START -/

theorem send_drivesExactly : DrivesExactly (fun i => ∃ f, i = .send f) [0, 9] := by
  constructor
  · rintro _ s t ⟨f, rfl⟩ h
    cases hb : s.regs.txBusy with
    | true => exact code_mem_of_next ((execSend_busy f hb).symm.trans h) .busy rfl (by decide)
    | false => exact code_mem_of_next ((execSend_idle f hb).symm.trans h) .none rfl (by decide)
  · simp only [List.forall_mem_cons]
    exact ⟨⟨.send zeroFrame, .reset, _, ⟨_, rfl⟩, rfl, by decide⟩,
      ⟨.send zeroFrame, { State.reset with regs := { Regs.reset with txBusy := true, txIdx := 0 } }, _,
        ⟨_, rfl⟩, execSend_busy _ rfl, by decide⟩, List.forall_mem_nil _⟩

theorem scanStart_drivesExactly : DrivesExactly (fun i => ∃ m, i = .scanStart m) [0, 9] := by
  constructor
  · rintro _ s t ⟨m, rfl⟩ h
    cases hb : scanBusy s.regs with
    | true => exact code_mem_of_next ((execScanStart_busy m hb).symm.trans h) .busy rfl (by decide)
    | false => exact code_mem_of_next ((execScanStart_idle m hb).symm.trans h) .none rfl (by decide)
  · simp only [List.forall_mem_cons]
    exact ⟨⟨.scanStart 0, .reset, _, ⟨_, rfl⟩, rfl, by decide⟩,
      ⟨.scanStart 0, { State.reset with regs := startScan 0 .reset }, _,
        ⟨_, rfl⟩, rfl, by decide⟩, List.forall_mem_nil _⟩

/-! ### The validators -/

theorem ackClass_code_mem (addr : Byte) (f : Frame) : (ackClass addr f).code ∈ [0, 1, 2, 3, 5] := by
  unfold ackClass
  split_ifs <;> decide

/-- The frames fail R201's tests from the first on, the last frame none of them. -/
theorem ackMatch_drivesExactly :
    DrivesExactly (fun i => ∃ f, i = .ackMatch f) [0, 1, 2, 3, 5] := by
  constructor
  · rintro _ s t ⟨f, rfl⟩ h
    exact code_mem_of_next h _ rfl (ackClass_code_mem _ f)
  · simp only [List.forall_mem_cons]
    exact ⟨⟨.ackMatch (ackFrame 0 0x80 (.replicate 22 0)), .reset, _, ⟨_, rfl⟩, rfl, by decide⟩,
      ⟨.ackMatch zeroFrame, .reset, _, ⟨_, rfl⟩, rfl, by decide⟩,
      ⟨.ackMatch (ackFrame 1 0 (.replicate 22 0)), .reset, _, ⟨_, rfl⟩, rfl, by decide⟩,
      ⟨.ackMatch (zeroFrame.set 0 0xAA), .reset, _, ⟨_, rfl⟩, rfl, by decide⟩,
      ⟨.ackMatch (ackFrame 0 0 (.replicate 22 0)), .reset, _, ⟨_, rfl⟩, rfl, by decide⟩,
      List.forall_mem_nil _⟩

theorem statusClass_code_mem (addr : Byte) (f : Frame) :
    (statusClass addr f).code ∈ [0, 1, 2, 4] := by
  unfold statusClass
  split_ifs <;> decide

theorem statusDecode_drivesExactly :
    DrivesExactly (fun i => ∃ f, i = .statusDecode f) [0, 1, 2, 4] := by
  constructor
  · rintro _ s t ⟨f, rfl⟩ h
    cases hl : layoutAdmitted s.params.layout with
    | true =>
      exact code_mem_of_next ((execStatusDecode_next hl f).symm.trans h) _ rfl
        (statusClass_code_mem _ f)
    | false => cases (execStatusDecode_refused hl f).symm.trans h
  · simp only [List.forall_mem_cons]
    exact ⟨⟨.statusDecode (buildFrame 0 (bodyOf []) 0), .reset, _, ⟨_, rfl⟩, rfl, by decide⟩,
      ⟨.statusDecode zeroFrame, .reset, _, ⟨_, rfl⟩, rfl, by decide⟩,
      ⟨.statusDecode (buildFrame 1 (bodyOf []) 0), .reset, _, ⟨_, rfl⟩, rfl, by decide⟩,
      ⟨.statusDecode (zeroFrame.set 0 0xAA), .reset, _, ⟨_, rfl⟩, rfl, by decide⟩,
      List.forall_mem_nil _⟩

/-! ### The reserved operations -/

theorem reserved_drivesExactly {i : Instr}
    (hi : i ∈ [Instr.reservedOpB, .reservedOpC, .reservedOpD, .reservedOpE, .reservedOpF]) :
    DrivesExactly (· = i) [8] := by
  refine drivesExactly_single ?_ ⟨i, .reset, _, rfl, exec_reserved hi _⟩
  rintro _ s t rfl h
  exact code_mem_of_next ((exec_reserved hi s).symm.trans h) .illegalOp rfl (by decide)

/-! ### The port events -/

theorem receivesOnly_self (s : State) : ReceivesOnly s s := ⟨rfl, rfl, rfl, rfl, rfl⟩

theorem receivesOnly_of_next {s t u : State} (h : (Host.Outcome.next u : Answer) = .next t)
    (hu : ReceivesOnly s u) : ReceivesOnly s t := by
  injection h with h
  exact h ▸ hu

/-- The registers are no part of what an event of the receive port keeps. -/
theorem ReceivesOnly.setRegs {s t : State} (h : ReceivesOnly s t) (r : Regs) :
    ReceivesOnly s { t with regs := r } :=
  { h with }

theorem execRxByteFill_receivesOnly {b : Byte} {s t : State} (h : execRxByteFill b s = .next t) :
    ReceivesOnly s t := by
  unfold execRxByteFill at h
  split at h
  · split at h
    next s' hs => exact receivesOnly_of_next h ((rxPull_keeps hs).2.setRegs _)
    next => exact receivesOnly_of_next h (receivesOnly_self s)
  · exact receivesOnly_of_next h (receivesOnly_self s)

theorem execRxByteHunt_receivesOnly {b : Byte} {s t : State} (h : execRxByteHunt b s = .next t) :
    ReceivesOnly s t := by
  unfold execRxByteHunt at h
  split at h
  · split at h
    next s' hs => exact receivesOnly_of_next h ((rxPull_keeps hs).2.setRegs _)
    next => exact receivesOnly_of_next h (receivesOnly_self s)
  · exact receivesOnly_of_next h (receivesOnly_self s)

theorem execRxTimeout_receivesOnly {s t : State} (h : execRxTimeout s = .next t) :
    ReceivesOnly s t := by
  cases hb : scanBusy s.regs with
  | true =>
    exact receivesOnly_of_next ((execRxTimeout_busy hb).symm.trans h) ((receivesOnly_self s).setRegs _)
  | false => exact receivesOnly_of_next ((execRxTimeout_ignored hb).symm.trans h) (receivesOnly_self s)

/-- A transmitted byte joins the channel and moves the transmitter on; it is no result. -/
theorem execTxByte_keeps_results {s t : State} (h : execTxByte s = .next t) :
    t.out = s.out ∧ t.results = s.results := by
  unfold execTxByte at h
  split at h
  · split at h
    · cases h; exact ⟨rfl, rfl⟩
    · cases h
  · cases h; exact ⟨rfl, rfl⟩

/-- Settles O45: an operation at a time; the events of the receive port are `ReceivesOnly`, and
TX_BYTE leaves the results too. -/
theorem errorCodesOfEachOperation : Obligations.ErrorCodesOfEachOperation := by
  refine ⟨nop_drivesExactly, cfgSetAddr_drivesExactly, build_drivesExactly, checksum_drivesExactly,
    check_drivesExactly, encnum_drivesExactly, decnum_drivesExactly, send_drivesExactly,
    scanStart_drivesExactly, ackMatch_drivesExactly, statusDecode_drivesExactly,
    fun i hi => reserved_drivesExactly hi, fun s t b h => ?_⟩
  have hrx (hr : ReceivesOnly s t) : t.out = s.out ∧ t.results = s.results := ⟨hr.out, hr.results⟩
  rcases h with h | h | h | h
  · exact hrx (execRxByteFill_receivesOnly h)
  · exact hrx (execRxByteHunt_receivesOnly h)
  · exact hrx (execRxTimeout_receivesOnly h)
  · exact execTxByte_keeps_results h

end Sys2Proof.Machine
end

/-! ## The host rejects out-of-range input (O59; spec/60_exceptions.md R256) -/

section
namespace Sys2Proof.Machine

theorem exec_encnum_operates {v : Rat} {w : BitVec 3} {s e : State}
    (h : exec (.encnum v w) s = .next e) : Operates s s.regs e := by
  injection h with h
  exact h ▸ operates_drive _ s

/-- A ready host begins the task that waits first. -/
theorem hostTurn_ready {h : HostState} {task : HostTask} {rest : List HostTask} (hpc : h.pc = .ready)
    (htodo : h.todo = task :: rest) (p : HostParams) :
    hostTurn p h = HostState.beginTask p { h with todo := rest } task := by
  simp only [hostTurn, hpc, htodo]

/-- RANGE ends a numeric task with its ENCNUM: no BUILD follows (R256). -/
theorem numericTask_range {h : HostState} {v : Rat} {w : BitVec 3} {e : State}
    (he : exec (.encnum v w) h.block = .next e) (hr : e.out.err = .range) (p : HostParams)
    (task : HostTask) (code : Byte) :
    h.numericTask p task code w v = { h with block := e, reports := h.reports ++ [.callerError] } := by
  simp [HostState.numericTask, HostState.afterOp, he, hr]

/-- The three one-shot operations with a number are numeric tasks, each with its code and width. -/
theorem beginTask_numeric {v : Rat} {c : OneShot × BitVec 3}
    (hc : c ∈ [(OneShot.setOutputVoltage v, (4 : BitVec 3)), (.setOutputCurrent v, 2),
      (.setMaximumVoltage v, 4)]) :
    ∃ code, ∀ (p : HostParams) (h : HostState),
      h.beginTask p (.oneShot c.1) = h.numericTask p (.oneShot c.1) code c.2 v := by
  simp only [List.mem_cons, List.not_mem_nil, or_false] at hc
  obtain rfl | rfl | rfl := hc
  · exact ⟨codeSetOutputV, fun _ _ => rfl⟩
  · exact ⟨codeSetOutputI, fun _ _ => rfl⟩
  · exact ⟨codeSetLimitV, fun _ _ => rfl⟩

/-- Settles O59: the task is a numeric one, which RANGE ends with its ENCNUM; that operation changes no
register and records one result. -/
theorem hostRejectsOutOfRangeInput : Obligations.HostRejectsOutOfRangeInput := by
  intro p h v rest e c hc hpc htodo he hr
  obtain ⟨code, hbegin⟩ := beginTask_numeric hc
  have hop := exec_encnum_operates he
  refine ⟨?_, hop.regs, hop.txChannel, hop.results⟩
  rw [hostTurn_ready hpc htodo, hbegin, numericTask_range (h := { h with todo := rest }) he hr, hpc]

end Sys2Proof.Machine
end

/-! ## Every step keeps the invariant, and it holds at reset (O38, O39; spec/10_state.md R27, R28, R36) -/

section
namespace Sys2Proof.Machine

/-- Settles O38: the registers of R36 meet the invariant. -/
theorem resetMeetsInv : Obligations.ResetMeetsInv := regsInv_reset

/-- Settles O39: a step resets the registers or changes them in one of the ways of `RegsStep`, and each
of these keeps the invariant. -/
theorem stepKeepsInv : Obligations.StepKeepsInv := fun _ _ hs h => step_keeps_stateInv hs h

end Sys2Proof.Machine
end

/-! ## Encoding and decoding (O1, O2, O3; spec/30_encoding.md R75, R80 to R82) -/

section
namespace Sys2Proof

open Laws

/-! ### Encode, then decode -/

/-- An instruction's image selects it again: the lemmas of Sys2Proof/Laws/PerInstr.lean together. -/
theorem laneRoundTrip (i : Instr) : LaneRoundTrip.Statement i := by
  cases i with
  | nop => exact LaneRoundTrip.nop
  | cfgSetAddr a => exact LaneRoundTrip.cfgSetAddr a
  | build body n => exact LaneRoundTrip.build body n
  | checksum f => exact LaneRoundTrip.checksum f
  | check f => exact LaneRoundTrip.check f
  | encnum v w => exact LaneRoundTrip.encnum v w
  | decnum f off w => exact LaneRoundTrip.decnum f off w
  | send f => exact LaneRoundTrip.send f
  | scanStart m => exact LaneRoundTrip.scanStart m
  | ackMatch f => exact LaneRoundTrip.ackMatch f
  | statusDecode f => exact LaneRoundTrip.statusDecode f
  | reservedOpB => exact LaneRoundTrip.reservedOpB
  | reservedOpC => exact LaneRoundTrip.reservedOpC
  | reservedOpD => exact LaneRoundTrip.reservedOpD
  | reservedOpE => exact LaneRoundTrip.reservedOpE
  | reservedOpF => exact LaneRoundTrip.reservedOpF
  | rxByteFill b => exact LaneRoundTrip.rxByteFill b
  | rxByteHunt b => exact LaneRoundTrip.rxByteHunt b
  | rxTimeout => exact LaneRoundTrip.rxTimeout
  | txByte => exact LaneRoundTrip.txByte
  | remoteEnable en => exact LaneRoundTrip.remoteEnable en
  | outputEnable en => exact LaneRoundTrip.outputEnable en
  | setLimitV v => exact LaneRoundTrip.setLimitV v
  | setOutputV v => exact LaneRoundTrip.setOutputV v
  | setOutputI a => exact LaneRoundTrip.setOutputI a
  | setAddress a => exact LaneRoundTrip.setAddress a
  | readConfig => exact LaneRoundTrip.readConfig
  | calMode p => exact LaneRoundTrip.calMode p
  | calState p => exact LaneRoundTrip.calState p
  | calReadV p => exact LaneRoundTrip.calReadV p
  | calSendV p => exact LaneRoundTrip.calSendV p
  | calReadI p => exact LaneRoundTrip.calReadI p
  | calSendI p => exact LaneRoundTrip.calSendI p
  | calSaveData p => exact LaneRoundTrip.calSaveData p
  | calSetInfo p => exact LaneRoundTrip.calSetInfo p
  | calReadInfo p => exact LaneRoundTrip.calReadInfo p
  | readID p => exact LaneRoundTrip.readID p
  | calReset p => exact LaneRoundTrip.calReset p
  | enaLocalKey p => exact LaneRoundTrip.enaLocalKey p
  | returnInfo addr ack rest => exact LaneRoundTrip.returnInfo addr ack rest
  | startByte => exact LaneRoundTrip.startByte

/-- An instruction that is a handshake is read from it while the handshake is possible; the others
have an image. -/
theorem decodeEvent_of_encode {i : Instr} {e : PortEvent} {phase : ScPhase} {txBusy : Bool}
    (he : encode i = .event e) (hp : i.portOpen phase txBusy = true) :
    decodeEvent phase txBusy e = some i := by
  cases i with
  | rxByteFill b =>
    cases he
    obtain rfl := of_decide_eq_true hp
    rfl
  | rxByteHunt b =>
    cases he
    obtain rfl := of_decide_eq_true hp
    rfl
  | rxTimeout => cases he; rfl
  | txByte =>
    cases he
    obtain rfl : txBusy = true := hp
    rfl
  | _ => cases he

/-- Settles O1: an image by the round trip of its lanes, a handshake by its phase and `TX_BUSY`. -/
theorem encodeThenDecodeIsIdentity : Obligations.EncodeThenDecodeIsIdentity := by
  intro i phase txBusy hw hp
  cases he : encode i with
  | word img => exact laneRoundTrip i hw img he
  | event e => simp only [decodeSample, decodeEvent_of_encode he hp]

/-! ### What decodes -/

/-- A transaction that the port can carry: within R82's bounds, and no handshake. -/
def Carried (i : Instr) : Prop :=
  i.wellFormed = true ∧ ∀ phase txBusy, i.portOpen phase txBusy = true

theorem exceptMap_eq_ok {ε α β : Type} {f : α → β} {x : Except ε α} {b : β}
    (h : x.map f = .ok b) : ∃ a, x = .ok a ∧ f a = b := by
  cases x with
  | error e => cases h
  | ok a => exact ⟨a, rfl, Except.ok.inj h⟩

/-- A payload that is read fits the port (R137). -/
theorem readPayload_fits {l : Lanes} {p : List Byte} (h : readPayload l = .ok p) :
    payloadFits p = true := by
  unfold readPayload at h
  split at h
  next hn =>
    obtain rfl := Except.ok.inj h
    exact decide_eq_true ((List.length_take_le _ _).trans hn)
  next => cases h

theorem carried_of_payload {l : Lanes} {i : Instr} {c : List Byte → Instr}
    (h : (readPayload l).map c = .ok i)
    (hc : ∀ p, payloadFits p = true → Carried (c p)) : Carried i := by
  obtain ⟨p, hp, rfl⟩ := exceptMap_eq_ok h
  exact hc p (readPayload_fits hp)

/-- Row by row: BUILD's count (0x02, `h_3`), the two booleans (0x20, 0x21), the twelve payloads, the
refusal of an unlisted selector, and the rows whose operands have no bound. -/
theorem decodeLanes_carried {l : Lanes} {i : Instr} (h : decodeLanes l = .ok i) : Carried i := by
  unfold decodeLanes at h
  split at h
  case h_3 =>
    split at h
    next hn =>
      obtain rfl := Except.ok.inj h
      exact ⟨decide_eq_true hn, fun _ _ => rfl⟩
    next => cases h
  case h_17 | h_18 =>
    obtain ⟨en, -, rfl⟩ := exceptMap_eq_ok h
    exact ⟨rfl, fun _ _ => rfl⟩
  case h_24 | h_25 | h_26 | h_27 | h_28 | h_29 | h_30 | h_31 | h_32 | h_33 | h_34 | h_35 =>
    exact carried_of_payload h fun p hp => ⟨hp, fun _ _ => rfl⟩
  case h_38 => cases h
  all_goals
    obtain rfl := Except.ok.inj h
    exact ⟨rfl, fun _ _ => rfl⟩

theorem decode_carried {img : List Byte} {i : Instr} (h : decode img = .ok i) : Carried i := by
  unfold decode at h
  split at h
  · exact decodeLanes_carried h
  · cases h

/-- A handshake that decodes is possible. -/
theorem decodeEvent_open {phase : ScPhase} {txBusy : Bool} {e : PortEvent} {i : Instr}
    (h : decodeEvent phase txBusy e = some i) :
    i.wellFormed = true ∧ i.portOpen phase txBusy = true := by
  cases e with
  | rx b => cases phase <;> cases h <;> exact ⟨rfl, rfl⟩
  | timeout => cases h; exact ⟨rfl, rfl⟩
  | txReady => cases txBusy <;> cases h; exact ⟨rfl, rfl⟩

/-- Settles O2: each row of the decoder checks R82's bound, and each handshake its phase. -/
theorem decodedInstructionsAreWellFormed : Obligations.DecodedInstructionsAreWellFormed := by
  intro phase txBusy sample i h
  cases sample with
  | word img =>
    obtain ⟨hw, hp⟩ := decode_carried h
    exact ⟨hw, hp phase txBusy⟩
  | event e =>
    simp only [decodeSample] at h
    split at h
    next j hj =>
      obtain rfl := Except.ok.inj h
      exact decodeEvent_open hj
    next => cases h

/-- Settles O3: fixed words and handshakes, by evaluation. -/
theorem tableWordsSelectTheirInstructions : Obligations.TableWordsSelectTheirInstructions := by
  unfold Obligations.TableWordsSelectTheirInstructions
  decide

/-! ### Refusals at the interface (O4, O5) -/

/-- A selector of neither table selects nothing: each row of the decoder's map has a listed
selector. -/
theorem decodeLanes_unlisted {l : Lanes} (h : l.sel ∉ Machine.listedSelectors) :
    decodeLanes l = .error (.unlistedSelector l.sel) := by
  unfold decodeLanes
  split
  case h_38 => rfl
  all_goals
    next hsel =>
      refine absurd ?_ h
      rw [← BitVec.setWidth_eq l.sel, ← BitVec.ofNat_toNat, hsel]
      decide

/-- The rows of the twelve payload commands. -/
theorem decodeLanes_payload {l : Lanes} {c : (List Byte → Instr) × Byte}
    (hc : c ∈ Machine.payloadCommands) (hs : c.2 = l.sel) :
    decodeLanes l = (readPayload l).map c.1 := by
  simp only [Machine.payloadCommands, List.cons_append, List.nil_append, List.mem_cons,
    List.not_mem_nil, or_false] at hc
  obtain ⟨sel, a, n, body, frame, w, off, m, num⟩ := l
  obtain rfl : c.2 = sel := hs
  obtain rfl | rfl | rfl | rfl | rfl | rfl | rfl | rfl | rfl | rfl | rfl | rfl := hc <;> rfl

theorem decodeLanes_build_over {l : Lanes} (hs : l.sel = 0x02) (hn : 23 < l.n.toNat) :
    decodeLanes l = .error (.countOverLanes l.n.toNat) := by
  simp [decodeLanes, hs, hn.not_ge]

theorem decodeLanes_payload_over {l : Lanes} {c : (List Byte → Instr) × Byte}
    (hc : c ∈ Machine.payloadCommands) (hs : c.2 = l.sel) (hn : 22 < l.n.toNat) :
    decodeLanes l = .error (.countOverLanes l.n.toNat) := by
  rw [decodeLanes_payload hc hs, readPayload, if_neg hn.not_ge]
  rfl

end Sys2Proof

namespace Sys2Proof.Machine

/-- A step whose transaction does not decode is refused with the decoder's reason. -/
theorem step_word_refused {s : State} {img : List Byte} {others : List PortInput}
    {cycles : List (List PortInput)} {e : DecodeError}
    (hs : s.inputs = (.word img :: others) :: cycles) (ho : .rst ∉ others)
    (he : decode img = .error e) : step s = .refused (.notExpressible e) := by
  rw [step_input hs (by simp) ho]
  exact runWord_error he _

/-- Settles O4: the decoder's last row. -/
theorem unlistedSelectorIsRefused : Obligations.UnlistedSelectorIsRefused := by
  intro l s others cycles hsel hs ho
  refine step_word_refused hs ho ?_
  rw [decode_laneBytes, decodeLanes_unlisted hsel]

/-- Settles O5: BUILD's row and the rows of the payload commands count the lanes. -/
theorem countOverLanesIsRefused : Obligations.CountOverLanesIsRefused := by
  intro l s others cycles hs ho hcount
  refine step_word_refused hs ho ?_
  rw [decode_laneBytes]
  obtain ⟨hsel, hn⟩ | ⟨⟨c, hc, hsel⟩, hn⟩ := hcount
  · exact decodeLanes_build_over hsel hn
  · exact decodeLanes_payload_over hc hsel hn

end Sys2Proof.Machine
end

/-! ## One step, input by input (O6, O7, O8, O9, O10, O11; spec/60_exceptions.md R243, R259;
spec/70_reset_and_hazards.md R280, R295) -/

section
namespace Sys2Proof.Machine

/-! ### Transactions -/

/-- The state in which an input is applied: the input taken, the result port at its defaults. -/
theorem beginStep_afterFirst (others : List PortInput) (cycles : List (List PortInput)) (s : State) :
    beginStep (afterFirst others cycles) s =
      { s with out := .undriven, inputs := if others = [] then cycles else others :: cycles } := by
  rw [afterFirst_eq]
  rfl

theorem step_word_ok {s : State} {img : List Byte} {others : List PortInput}
    {cycles : List (List PortInput)} {i : Instr} (hs : s.inputs = (.word img :: others) :: cycles)
    (ho : .rst ∉ others) (hi : decode img = .ok i) :
    step s = exec i (beginStep (afterFirst others cycles) s) := by
  rw [step_input hs (by simp) ho]
  exact runWord_ok hi _

/-- Settles O6: the two answers of the decoder; what it decodes is well formed by O2's lemma. -/
theorem stepRunsDecodedInstruction : Obligations.StepRunsDecodedInstruction := by
  intro s img others cycles hs ho
  refine ⟨fun i hi => ⟨(decode_carried hi).1, ?_⟩, fun e he => step_word_refused hs ho he⟩
  rw [step_word_ok hs ho hi, beginStep_afterFirst]

theorem decode_of_decodeTableWord {nbits w : Nat} {i : Instr} (h : decodeTableWord nbits w = some i) :
    decode (wordImage nbits w) = .ok i := by
  unfold decodeTableWord at h
  split at h
  next j hj => rw [hj, Option.some.inj h]
  next => cases h

/-- Settles O9: the word stands alone in the cycle before all others. -/
theorem fetchedWordRunsNext : Obligations.FetchedWordRunsNext := fun s nbits w _ h =>
  step_word_ok (s := s.withFetchWord nbits w) rfl (by simp) (decode_of_decodeTableWord h)

/-! ### Handshakes -/

theorem runEvent_some {e : PortEvent} {i : Instr} {s : State}
    (h : decodeEvent s.regs.scPhase s.regs.txBusy e = some i) : runEvent e s = exec i s := by
  simp only [runEvent, h]

theorem runEvent_none {e : PortEvent} {s : State}
    (h : decodeEvent s.regs.scPhase s.regs.txBusy e = none) : runEvent e s = .next s := by
  simp only [runEvent, h]

theorem runEvent_rx_fill {s : State} (b : Byte) (hp : s.regs.scPhase = .fill) :
    runEvent (.rx b) s = exec (.rxByteFill b) s := runEvent_some (by rw [hp]; rfl)

theorem runEvent_rx_hunt {s : State} (b : Byte) (hp : s.regs.scPhase = .hunt) :
    runEvent (.rx b) s = exec (.rxByteHunt b) s := runEvent_some (by rw [hp]; rfl)

/-- Outside FILL and HUNT the scanner is not ready for a byte (R177). -/
theorem runEvent_rx_notBusy {s : State} (b : Byte) (hp : s.regs.scPhase = .idle ∨ s.regs.scPhase = .done) :
    runEvent (.rx b) s = .next s := by
  refine runEvent_none ?_
  obtain hp | hp := hp <;> rw [hp] <;> rfl

theorem runEvent_txReady_busy {s : State} (hb : s.regs.txBusy = true) :
    runEvent .txReady s = exec .txByte s := runEvent_some (by rw [hb]; rfl)

theorem runEvent_txReady_idle {s : State} (hb : s.regs.txBusy = false) :
    runEvent .txReady s = .next s := runEvent_none (by rw [hb]; rfl)

/-- `rx_data` is the channel's oldest byte (R57). -/
theorem applyInput_rxValid {s : State} {b : Byte} {rest : List Byte} (h : s.rxChannel = b :: rest) :
    applyInput .rxValid s = runEvent (.rx b) s := by
  simp only [applyInput, h]

theorem applyInput_rxValid_empty {s : State} (h : s.rxChannel = []) :
    applyInput .rxValid s = .next s := by
  simp only [applyInput, h]

/-- Settles O7: the handshakes in the state with the input taken, which has the registers and the
receive channel of the state before. -/
theorem stepTakesPortHandshakes : Obligations.StepTakesPortHandshakes := by
  intro s u e others cycles hs ho hu
  have hstep (he : e ≠ .rst) : step s = applyInput e u := by
    rw [step_input hs he ho, beginStep_afterFirst, hu]
  have hregs : u.regs = s.regs := by rw [hu]
  have hrx : u.rxChannel = s.rxChannel := by rw [hu]
  refine ⟨fun b rest he hb => ?_, fun he hb => ?_, fun he => ?_, fun he => ?_, fun bytes he => ?_⟩ <;>
    rw [hstep (by simp [he]), he]
  · rw [applyInput_rxValid (hrx.trans hb), ← hregs]
    cases hp : u.regs.scPhase with
    | fill => exact runEvent_rx_fill b hp
    | hunt => exact runEvent_rx_hunt b hp
    | idle => exact runEvent_rx_notBusy b (.inl hp)
    | done => exact runEvent_rx_notBusy b (.inr hp)
  · exact applyInput_rxValid_empty (hrx.trans hb)
  · rfl
  · rw [← hregs]
    cases hb : u.regs.txBusy with
    | true => exact runEvent_txReady_busy hb
    | false => exact runEvent_txReady_idle hb
  · rw [← hrx]
    rfl

/-! ### No input, and the end of a run -/

theorem scanBusy_eq_false_iff (r : Regs) :
    scanBusy r = false ↔ r.scPhase ≠ .fill ∧ r.scPhase ≠ .hunt := by
  rw [← Bool.not_eq_true, scanBusy_iff, not_or]

theorem exists_runOutcome_iff (s : State) : (∃ o, runOutcome s = some o) ↔ runEnded s = true := by
  simp only [runOutcome_eq_some, exists_and_left, exists_eq, and_true]

/-- An ended run goes on with empty cycles alone, and its outcome stays. -/
theorem step_keeps_runOutcome {s : State} (h : runEnded s = true) :
    ∃ t, step s = .next t ∧ runOutcome t = some (observed s) := by
  obtain ⟨hempty, hscan, htx⟩ := (runEnded_iff s).mp h
  cases hs : s.inputs with
  | nil =>
    refine ⟨_, step_idle hs, runOutcome_eq_some.mpr ⟨?_, (observed_undrive s).symm⟩⟩
    exact (runEnded_iff _).mpr ⟨hempty, hscan, htx⟩
  | cons cycle cycles =>
    rw [hs] at hempty
    obtain ⟨rfl, hcycles⟩ := List.forall_mem_cons.mp hempty
    refine ⟨_, step_empty hs, runOutcome_eq_some.mpr ⟨?_, (observed_beginStep cycles s).symm⟩⟩
    exact (runEnded_iff _).mpr ⟨hcycles, hscan, htx⟩

/-- Settles O8: the equations of `step`, R259's conditions, and the outcome they keep. -/
theorem stepWithoutInputWaits : Obligations.StepWithoutInputWaits := by
  refine fun s => ⟨step_idle, fun cycles hs => step_empty hs, ?_, fun o ho => ?_⟩
  · rw [exists_runOutcome_iff, runEnded_iff, scanBusy_eq_false_iff, and_assoc]
  · obtain ⟨hended, rfl⟩ := runOutcome_eq_some.mp ho
    exact ⟨rfl, step_keeps_runOutcome hended⟩

/-! ### Reset -/

/-- Settles O10: the step is `applyReset`, whose registers are the table of R36. -/
theorem resetFromAnyState : Obligations.ResetFromAnyState := by
  intro s cycle cycles hs hr
  refine ⟨_, step_rst hs hr, ?_⟩
  simp [Regs.reset, addrReset, marker, returnInfoCode, ackOk, ackSentinel]

/-- Settles O11: the step is `applyReset` on the cycles that follow. -/
theorem resetDropsTheRestOfItsStep : Obligations.ResetDropsTheRestOfItsStep :=
  fun _ _ _ hs hr => ⟨_, step_rst hs hr, rfl, rfl, rfl⟩

end Sys2Proof.Machine
end

/-! ## Single events of the ports (O28, O33, O57; spec/40_codec.md R111; spec/42_scanner.md R177;
spec/41_wire_commands.md R150) -/

section
namespace Sys2Proof.Machine

/-! ### TX_BYTE -/

/-- A busy transmitter stays busy until the byte at offset 25 is gone. -/
theorem advanceTx_of_busy {r : Regs} (h : r.txBusy = true) :
    advanceTx r = { r with txIdx := r.txIdx + 1, txBusy := decide (r.txIdx + 1 ≠ 26) } := by
  rw [advanceTx, h, decide_not]
  by_cases hlast : r.txIdx + 1 = 26 <;> simp [hlast]

theorem execTxByte_beyond {s : State} (hb : s.regs.txBusy = true) (h : 26 ≤ s.regs.txIdx) :
    execTxByte s = .fault (.frameOffset s.regs.txIdx) := by
  have hd : txData s.regs = none := by simp [txData, h]
  rw [execTxByte, if_pos hb, hd]

/-- Settles O28: the byte at TX_IDX is pushed; no byte without a transmission; a fault beyond the
frame. -/
theorem txBytePushesTheNextByte : Obligations.TxBytePushesTheNextByte :=
  ⟨fun _ h hb => ⟨_, execTxByte_next h hb, rfl, advanceTx_of_busy hb, rfl, rfl, rfl, rfl, rfl⟩,
    fun _ hb => execTxByte_idle hb, fun _ hb h => execTxByte_beyond hb h⟩

/-! ### RX_BYTE against phase and channel -/

theorem execRxByteFill_otherPhase {s : State} (hp : s.regs.scPhase ≠ .fill) (b : Byte) :
    execRxByteFill b s = .next s := if_neg hp

theorem execRxByteHunt_otherPhase {s : State} (hp : s.regs.scPhase ≠ .hunt) (b : Byte) :
    execRxByteHunt b s = .next s := if_neg hp

/-- Only the channel's oldest byte can be on `rx_data`. -/
theorem execRxByteFill_otherByte {b c : Byte} {rest : List Byte} {s : State}
    (h : s.rxChannel = c :: rest) (hc : c ≠ b) : execRxByteFill b s = .next s := by
  rw [execRxByteFill, rxPull_other h hc, ite_self]

theorem execRxByteHunt_otherByte {b c : Byte} {rest : List Byte} {s : State}
    (h : s.rxChannel = c :: rest) (hc : c ≠ b) : execRxByteHunt b s = .next s := by
  rw [execRxByteHunt, rxPull_other h hc, ite_self]

/-- Settles O33: no byte moves in another phase or past the channel's oldest; from an empty channel
the byte moves as if it had waited there. -/
theorem receiveHandshakeAgainstTheChannel : Obligations.ReceiveHandshakeAgainstTheChannel := by
  refine fun b s => ⟨fun hp => execRxByteFill_otherPhase hp b, fun hp => execRxByteHunt_otherPhase hp b,
    fun c rest h hc => ⟨execRxByteFill_otherByte h hc, execRxByteHunt_otherByte h hc⟩,
    fun h => ⟨fun hp => ?_, fun hp => ?_⟩⟩
  · exact (execRxByteFill_next hp (.inr ⟨h, rfl⟩)).trans
      (execRxByteFill_next (s := { s with rxChannel := [b] }) hp (.inl rfl)).symm
  · exact (execRxByteHunt_next hp (.inr ⟨h, rfl⟩)).trans
      (execRxByteHunt_next (s := { s with rxChannel := [b] }) hp (.inl rfl)).symm

/-! ### StartByte -/

/-- The scanner takes the channel's oldest byte in FILL and in HUNT, and none elsewhere (R177). -/
theorem rxHandshake_fill {s : State} {b : Byte} {rest : List Byte} (h : s.rxChannel = b :: rest)
    (hp : s.regs.scPhase = .fill) : rxHandshake s = execRxByteFill b s := by
  simp only [rxHandshake, h, hp]

theorem rxHandshake_hunt {s : State} {b : Byte} {rest : List Byte} (h : s.rxChannel = b :: rest)
    (hp : s.regs.scPhase = .hunt) : rxHandshake s = execRxByteHunt b s := by
  simp only [rxHandshake, h, hp]

theorem rxHandshake_notBusy {s : State} (hp : s.regs.scPhase = .idle ∨ s.regs.scPhase = .done) :
    rxHandshake s = .next s := by
  cases hrx : s.rxChannel with
  | nil => simp only [rxHandshake, hrx]
  | cons b rest => obtain hp | hp := hp <;> simp only [rxHandshake, hrx, hp]

/-- A delivery beforehand is no part of what an event of the receive port keeps. -/
theorem ReceivesOnly.of_deliver {bytes : List Byte} {s t : State}
    (h : ReceivesOnly (deliver bytes s) t) : ReceivesOnly s t :=
  ⟨h.params, h.out, h.results, h.txChannel, h.inputs⟩

/-- Settles O57: StartByte is a receive handshake after a delivery. -/
theorem startByteArrivesAtTheReceivePort : Obligations.StartByteArrivesAtTheReceivePort := by
  intro s u b rest hrx hu
  obtain rfl : deliver [marker] s = u := hu.symm
  refine ⟨fun hp => rxHandshake_notBusy hp, fun hp => ?_, fun hp => ?_⟩
  · obtain ⟨t, ht, hrest, hregs, honly⟩ :=
      execRxByteFill_takes (s := deliver [marker] s) hp (.inl hrx)
    refine ⟨t, (rxHandshake_fill (s := deliver [marker] s) hrx hp).trans ht, ht, hrest, honly.of_deliver, ?_⟩
    rw [hregs]
    exact ⟨(fillByte_counts b s.regs).1, (fillByte_takes b s.regs).window.2⟩
  · obtain ⟨t, ht, hrest, hregs, honly⟩ :=
      execRxByteHunt_takes (s := deliver [marker] s) hp (.inl hrx)
    refine ⟨t, (rxHandshake_hunt (s := deliver [marker] s) hrx hp).trans ht, ht, hrest, honly.of_deliver, ?_⟩
    rw [hregs]
    exact ⟨(huntByte_counts b s.regs).2, (huntByte_takes b s.regs).window.2⟩

end Sys2Proof.Machine
end

/-! ## Commands, and the frame of a failed scan (O50, O51, O52, O53, O56; spec/41_wire_commands.md
R130 to R135, R149; spec/43_validators.md R201, R203) -/

section
namespace Sys2Proof.Machine

/-! ### The frame of a failed scan -/

/-- Both validators look for the marker first. -/
theorem ackMatchResult_noMarker {f : Frame} (h : f[0] ≠ marker) (addr : Byte) :
    ackMatchResult addr f = { Outputs.undriven with ack := ackSentinel, err := .framingLoss } := by
  have hm : ackMatched addr f = false := by simp [ackMatched, h]
  have ha : ackOf addr f = ackSentinel := by rw [ackOf, hm]; rfl
  rw [ackMatchResult, hm, ha, ackClass, if_pos h]
  rfl

theorem statusValid_noMarker {f : Frame} (h : f[0] ≠ marker) (addr : Byte) :
    statusValid addr f = false := by
  simp [statusValid, h]

theorem statusClass_noMarker {f : Frame} (h : f[0] ≠ marker) (addr : Byte) :
    statusClass addr f = .framingLoss := if_pos h

theorem zeroFrame_noMarker : zeroFrame[0] ≠ marker := by decide

/-- Settles O50: the zero frame has a right checksum, and no marker. -/
theorem failureFrameIsNeverAccepted : Obligations.FailureFrameIsNeverAccepted := by
  refine fun s => ⟨⟨_, rfl, (checkResult_ok_iff zeroFrame).mpr (by decide)⟩, ?_, fun hl => ?_⟩
  · refine ⟨_, rfl, ?_⟩
    rw [drive_out, ackMatchResult_noMarker zeroFrame_noMarker]
    exact ⟨rfl, rfl, rfl, rfl⟩
  · exact ⟨_, execStatusDecode_next hl zeroFrame, statusValid_noMarker zeroFrame_noMarker s.regs.addr,
      statusClass_noMarker zeroFrame_noMarker s.regs.addr⟩

/-! ### BUILD of a code and its operand -/

/-- Settles O51: each is the BUILD of its code and the boolean byte. -/
theorem booleanCommandsBuildTheirFrames : Obligations.BooleanCommandsBuildTheirFrames := by
  intro en s c hc
  refine ⟨buildCommand c.2 [boolByte en] s, ?_, operates_buildCommand _ _ s,
    buildCommand_frame c.2 [boolByte en] s⟩
  simp only [List.mem_cons, List.not_mem_nil, or_false] at hc
  obtain rfl | rfl := hc <;> rfl

/-- Settles O53: SetAddress is the BUILD of its code and the new address, and no CFG_SET_ADDR. -/
theorem setAddressLeavesAddrAlone : Obligations.SetAddressLeavesAddrAlone := fun a s =>
  ⟨_, rfl, operates_buildCommand codeSetAddress [a] s, buildCommand_frame codeSetAddress [a] s⟩

/-- The three numeric commands are `numericCommand` with their code and a legal width. -/
theorem exec_numericCommand {v : Rat} {c : Instr × Byte × Nat}
    (hc : c ∈ [(Instr.setLimitV v, (0x22 : Byte), 4), (.setOutputV v, 0x23, 4),
      (.setOutputI v, 0x24, 2)]) :
    ∃ w : BitVec 3, legalWidth w = true ∧ w.toNat = c.2.2 ∧
      ∀ s, exec c.1 s = numericCommand c.2.1 w v s := by
  simp only [List.mem_cons, List.not_mem_nil, or_false] at hc
  obtain rfl | rfl | rfl := hc
  · exact ⟨4, rfl, rfl, fun _ => rfl⟩
  · exact ⟨4, rfl, rfl, fun _ => rfl⟩
  · exact ⟨2, rfl, rfl, fun _ => rfl⟩

theorem numericCommand_eq {w : BitVec 3} (hw : legalWidth w = true) (code : Byte) (v : Rat) (s : State) :
    numericCommand code w v s =
      .next (buildCommand code (encnumDriven (rawOf s.params.tieRule v) w.toNat).bytes
        (drive (encnumDriven (rawOf s.params.tieRule v) w.toNat) s)) := by
  rw [numericCommand, encnumResult_legal hw]

/-- ENCNUM drives its four lanes and no other. -/
theorem encnumDriven_drives (raw : Int) (w : Nat) :
    encnumDriven raw w = { Outputs.undriven with
      raw := (encnumDriven raw w).raw, bytes := (encnumDriven raw w).bytes,
      ok := (encnumDriven raw w).ok, err := (encnumDriven raw w).err } := rfl

/-- A result and then a BUILD: two results are recorded, and nothing else changes. -/
theorem buildCommand_drive (code : Byte) (p : List Byte) (e : Outputs) (s : State) :
    Operates (drive e s) s.regs (buildCommand code p (drive e s)) ∧
      (buildCommand code p (drive e s)).results =
        s.results ++ [e, (buildCommand code p (drive e s)).out] := by
  have hop := operates_buildCommand code p (drive e s)
  refine ⟨hop, ?_⟩
  rw [hop.results, drive_results, List.append_assoc]
  rfl

/-- Settles O52: ENCNUM's result at a legal width, then the BUILD of the code and its bytes. -/
theorem numericCommandsEncodeAndBuild : Obligations.NumericCommandsEncodeAndBuild := by
  intro v s c hc
  obtain ⟨w, hlegal, hwidth, hexec⟩ := exec_numericCommand hc
  have hround := rawOf_isRound s.params.tieRule v
  rw [hexec, numericCommand_eq hlegal, hwidth]
  generalize rawOf s.params.tieRule v = raw at hround ⊢
  have hdrives := encnumDriven_drives raw c.2.2
  obtain ⟨hraw, hlen, hbytes, hok, herr⟩ := encnumDriven_spec raw c.2.2
  generalize encnumDriven raw c.2.2 = e at *
  obtain ⟨hop, hresults⟩ := buildCommand_drive c.2.1 e.bytes e s
  exact ⟨_, e, raw, rfl, hresults, hop.regs, hop.params, hop.rxChannel, hop.txChannel, hop.inputs,
    hround, hdrives, hraw, hlen, hbytes, hok, herr, buildCommand_frame c.2.1 e.bytes (drive e s)⟩

/-! ### ReturnInfo -/

/-- ACK_MATCH of an acknowledgement frame: the address decides, then the ack code. -/
theorem ackMatchResult_ackFrame (own addr ack : Byte) (rest : Vector Byte 22) :
    ackMatchResult own (ackFrame addr ack rest) =
      if addr = own then
        { Outputs.undriven with
          matched := true, ack := ack, ok := decide (ack = ackOk),
          err := if ack = ackOk then .none else .nack }
      else { Outputs.undriven with ack := ackSentinel, err := .addrMismatch } := by
  obtain ⟨h0, h1, h2, h3⟩ := ackFrame_head addr ack rest
  simp only [ackMatchResult, ackOf, ackMatched, ackClass, h0, h1, h2, h3]
  by_cases ha : addr = own
  · simp [ha]
  · simp [ha, Outputs.undriven, ackSentinel, ackOk]

/-- Settles O56: ReturnInfo is ACK_MATCH of its frame. -/
theorem returnInfoIsRecognised : Obligations.ReturnInfoIsRecognised := by
  refine fun addr ack rest s => ⟨_, rfl, operates_drive _ s, fun ha => ?_, fun ha => ?_⟩ <;>
    rw [drive_out, ackMatchResult_ackFrame]
  · exact if_pos ha
  · exact if_neg ha

end Sys2Proof.Machine
end

/-! ## Who writes a register (O42, O43; spec/10_state.md R20, R23)

Eight instructions write a register or move a byte; the others only report on the result port. `Writes`
says so once, row by row, and the obligations are read off. -/

section
namespace Sys2Proof.Machine

/-- Neither a register nor a channel differs: what an instruction leaves that only reports. -/
structure SameBlock (s t : State) : Prop where
  regs : t.regs = s.regs
  rxChannel : t.rxChannel = s.rxChannel
  txChannel : t.txChannel = s.txChannel

theorem sameBlock_self (s : State) : SameBlock s s := ⟨rfl, rfl, rfl⟩

theorem sameBlock_drive (e : Outputs) (s : State) : SameBlock s (drive e s) := ⟨rfl, rfl, rfl⟩

theorem sameBlock_of_next {s t u : State} (h : (Host.Outcome.next u : Answer) = .next t)
    (hu : SameBlock s u) : SameBlock s t := by
  injection h with h
  exact h ▸ hu

theorem rawCommand_sameBlock {code : Byte} {p : List Byte} {s t : State}
    (h : rawCommand code p s = .next t) : SameBlock s t := by
  obtain ⟨-, rfl⟩ := rawCommand_cases h
  exact sameBlock_drive _ s

theorem numericCommand_sameBlock {code : Byte} {w : BitVec 3} {v : Rat} {s t : State}
    (h : numericCommand code w v s = .next t) : SameBlock s t :=
  have hop := (buildCommand_drive code (encnumResult s.params.tieRule v w).bytes
    (encnumResult s.params.tieRule v w) s).1
  sameBlock_of_next h ⟨hop.regs, hop.rxChannel, hop.txChannel⟩

theorem execBuild_sameBlock {body : Body} {n : Nat} {s t : State} (h : execBuild body n s = .next t) :
    SameBlock s t := by
  unfold execBuild at h
  split at h
  · exact sameBlock_of_next h (sameBlock_drive _ s)
  · cases h

theorem execStatusDecode_sameBlock {f : Frame} {s t : State} (h : execStatusDecode f s = .next t) :
    SameBlock s t := by
  unfold execStatusDecode at h
  split at h
  · exact sameBlock_of_next h (sameBlock_drive _ s)
  · cases h

/-! ### What each instruction can write -/

/-- What an instruction that completes has written (R20's "written by"): nothing, or what the eight
instructions write that are no mere reports. StartByte is an RX_BYTE (log 9). -/
inductive Writes (s t : State) : Instr → Prop where
  | reports {i : Instr} (same : SameBlock s t) : Writes s t i
  | cfgSetAddr {a : Byte} (regs : t.regs = { s.regs with addr := a })
      (rx : t.rxChannel = s.rxChannel) (tx : t.txChannel = s.txChannel) : Writes s t (.cfgSetAddr a)
  | send {f : Frame} (idle : s.regs.txBusy = false)
      (regs : t.regs = { s.regs with txBuf := f, txIdx := 0, txBusy := true })
      (rx : t.rxChannel = s.rxChannel) (tx : t.txChannel = s.txChannel) : Writes s t (.send f)
  | txByte (busy : s.regs.txBusy = true) (left : s.regs.txIdx < 26) (regs : t.regs = advanceTx s.regs)
      (rx : t.rxChannel = s.rxChannel) (tx : t.txChannel = s.txChannel ++ [s.regs.txBuf[s.regs.txIdx]]) :
      Writes s t .txByte
  | scanStart {m : BitVec 16} (regs : t.regs = startScan m s.regs)
      (rx : t.rxChannel = s.rxChannel) (tx : t.txChannel = s.txChannel) : Writes s t (.scanStart m)
  | rxTimeout
      (regs : t.regs =
        { s.regs with scFrame := zeroFrame, scSync := false, scTmo := true, scPhase := .done })
      (rx : t.rxChannel = s.rxChannel) (tx : t.txChannel = s.txChannel) : Writes s t .rxTimeout
  | rxByteFill {b : Byte} (keeps : KeepsNonScan s.regs t.regs) (tx : t.txChannel = s.txChannel) :
      Writes s t (.rxByteFill b)
  | rxByteHunt {b : Byte} (keeps : KeepsNonScan s.regs t.regs) (tx : t.txChannel = s.txChannel) :
      Writes s t (.rxByteHunt b)
  | startByte (keeps : KeepsNonScan s.regs t.regs) (tx : t.txChannel = s.txChannel) :
      Writes s t .startByte

theorem writes_of_next {i : Instr} {s t u : State} (h : (Host.Outcome.next u : Answer) = .next t)
    (hu : Writes s u i) : Writes s t i := by
  injection h with h
  exact h ▸ hu

theorem execSend_writes {f : Frame} {s t : State} (h : execSend f s = .next t) :
    Writes s t (.send f) := by
  cases hb : s.regs.txBusy with
  | true =>
    exact writes_of_next ((execSend_busy f hb).symm.trans h) (.reports (sameBlock_drive _ s))
  | false => exact writes_of_next ((execSend_idle f hb).symm.trans h) (.send hb rfl rfl rfl)

theorem execTxByte_writes {s t : State} (h : execTxByte s = .next t) : Writes s t .txByte := by
  cases hb : s.regs.txBusy with
  | false => exact writes_of_next ((execTxByte_idle hb).symm.trans h) (.reports (sameBlock_self s))
  | true =>
    rcases lt_or_ge s.regs.txIdx 26 with hlt | hge
    · exact writes_of_next ((execTxByte_next hlt hb).symm.trans h) (.txByte hb hlt rfl rfl rfl)
    · cases (execTxByte_beyond hb hge).symm.trans h

theorem execScanStart_writes {m : BitVec 16} {s t : State} (h : execScanStart m s = .next t) :
    Writes s t (.scanStart m) := by
  cases hb : scanBusy s.regs with
  | true =>
    exact writes_of_next ((execScanStart_busy m hb).symm.trans h) (.reports (sameBlock_drive _ s))
  | false => exact writes_of_next ((execScanStart_idle m hb).symm.trans h) (.scanStart rfl rfl rfl)

theorem execRxTimeout_writes {s t : State} (h : execRxTimeout s = .next t) :
    Writes s t .rxTimeout := by
  cases hb : scanBusy s.regs with
  | true => exact writes_of_next ((execRxTimeout_busy hb).symm.trans h) (.rxTimeout rfl rfl rfl)
  | false =>
    exact writes_of_next ((execRxTimeout_ignored hb).symm.trans h) (.reports (sameBlock_self s))

theorem keepsNonScan_self (r : Regs) : KeepsNonScan r r := ⟨rfl, rfl, rfl, rfl, rfl, rfl⟩

/-- A receive handshake either moves nothing or lets the scanner take a byte. -/
theorem execRxByteFill_regs {b : Byte} {s t : State} (h : execRxByteFill b s = .next t) :
    t.regs = s.regs ∨ t.regs = fillByte b s.regs := by
  unfold execRxByteFill at h
  split at h
  · split at h
    · exact .inr (by rw [← Host.Outcome.next.inj h])
    · exact .inl (by rw [← Host.Outcome.next.inj h])
  · exact .inl (by rw [← Host.Outcome.next.inj h])

theorem execRxByteHunt_regs {b : Byte} {s t : State} (h : execRxByteHunt b s = .next t) :
    t.regs = s.regs ∨ t.regs = huntByte b s.regs := by
  unfold execRxByteHunt at h
  split at h
  · split at h
    · exact .inr (by rw [← Host.Outcome.next.inj h])
    · exact .inl (by rw [← Host.Outcome.next.inj h])
  · exact .inl (by rw [← Host.Outcome.next.inj h])

theorem execRxByteFill_keepsNonScan {b : Byte} {s t : State} (h : execRxByteFill b s = .next t) :
    KeepsNonScan s.regs t.regs := by
  obtain hr | hr := execRxByteFill_regs h <;> rw [hr]
  · exact keepsNonScan_self s.regs
  · exact (fillByte_takes b s.regs).keeps

theorem execRxByteHunt_keepsNonScan {b : Byte} {s t : State} (h : execRxByteHunt b s = .next t) :
    KeepsNonScan s.regs t.regs := by
  obtain hr | hr := execRxByteHunt_regs h <;> rw [hr]
  · exact keepsNonScan_self s.regs
  · exact (huntByte_takes b s.regs).keeps

theorem rxHandshake_keeps {s t : State} (h : rxHandshake s = .next t) :
    KeepsNonScan s.regs t.regs ∧ ReceivesOnly s t := by
  unfold rxHandshake at h
  split at h
  · cases h; exact ⟨keepsNonScan_self s.regs, receivesOnly_self s⟩
  · split at h
    · exact ⟨execRxByteFill_keepsNonScan h, execRxByteFill_receivesOnly h⟩
    · exact ⟨execRxByteHunt_keepsNonScan h, execRxByteHunt_receivesOnly h⟩
    · cases h; exact ⟨keepsNonScan_self s.regs, receivesOnly_self s⟩
    · cases h; exact ⟨keepsNonScan_self s.regs, receivesOnly_self s⟩

theorem execStartByte_receivesOnly {s t : State} (h : execStartByte s = .next t) :
    ReceivesOnly s t := (rxHandshake_keeps h).2.of_deliver

theorem exec_writes {i : Instr} {s t : State} (h : exec i s = .next t) : Writes s t i := by
  cases i with
  | cfgSetAddr a => exact writes_of_next h (.cfgSetAddr rfl rfl rfl)
  | send f => exact execSend_writes h
  | scanStart m => exact execScanStart_writes h
  | rxByteFill b =>
    exact .rxByteFill (execRxByteFill_keepsNonScan h) (execRxByteFill_receivesOnly h).txChannel
  | rxByteHunt b =>
    exact .rxByteHunt (execRxByteHunt_keepsNonScan h) (execRxByteHunt_receivesOnly h).txChannel
  | rxTimeout => exact execRxTimeout_writes h
  | txByte => exact execTxByte_writes h
  | startByte =>
    exact .startByte (rxHandshake_keeps (s := deliver [marker] s) h).1
      (execStartByte_receivesOnly h).txChannel
  | build body n => exact .reports (execBuild_sameBlock h)
  | statusDecode f => exact .reports (execStatusDecode_sameBlock h)
  | calMode p => exact .reports (rawCommand_sameBlock h)
  | calState p => exact .reports (rawCommand_sameBlock h)
  | calReadV p => exact .reports (rawCommand_sameBlock h)
  | calSendV p => exact .reports (rawCommand_sameBlock h)
  | calReadI p => exact .reports (rawCommand_sameBlock h)
  | calSendI p => exact .reports (rawCommand_sameBlock h)
  | calSaveData p => exact .reports (rawCommand_sameBlock h)
  | calSetInfo p => exact .reports (rawCommand_sameBlock h)
  | calReadInfo p => exact .reports (rawCommand_sameBlock h)
  | readID p => exact .reports (rawCommand_sameBlock h)
  | calReset p => exact .reports (rawCommand_sameBlock h)
  | enaLocalKey p => exact .reports (rawCommand_sameBlock h)
  | setLimitV v => exact .reports (numericCommand_sameBlock h)
  | setOutputV v => exact .reports (numericCommand_sameBlock h)
  | setOutputI a => exact .reports (numericCommand_sameBlock h)
  | _ => exact .reports (sameBlock_of_next h (sameBlock_drive _ s))

/-- Settles O43: the columns of R20, read off the rows of `Writes`. -/
theorem registersHaveOnlyTheirWriters : Obligations.RegistersHaveOnlyTheirWriters := by
  intro i s t h
  cases exec_writes h with
  | reports same => simp [same.regs, same.rxChannel, same.txChannel]
  | cfgSetAddr regs rx tx => simp [regs, rx, tx]
  | send _ regs rx tx => simp [regs, rx, tx]
  | txByte _ _ regs rx _ => simp [regs, rx]
  | scanStart regs rx tx => simp [regs, tx]
  | rxTimeout regs rx tx => simp [regs, rx, tx]
  | rxByteFill keeps tx =>
    simp [keeps.addr, keeps.scMax, keeps.scTmo, keeps.txBuf, keeps.txIdx, keeps.txBusy, tx]
  | rxByteHunt keeps tx =>
    simp [keeps.addr, keeps.scMax, keeps.scTmo, keeps.txBuf, keeps.txIdx, keeps.txBusy, tx]
  | startByte keeps tx =>
    simp [keeps.addr, keeps.scMax, keeps.scTmo, keeps.txBuf, keeps.txIdx, keeps.txBusy, tx]

/-! ### A step's cases -/

/-- What a step does, by the schedule: it waits, drops an empty cycle, resets, or applies an input. -/
inductive Steps (s t : State) : Prop where
  | waits (schedule : s.inputs = []) (after : t = undrive s)
  | skips (cycles : List (List PortInput)) (schedule : s.inputs = [] :: cycles)
      (after : t = beginStep cycles s)
  | resets (cycle : List PortInput) (cycles : List (List PortInput))
      (schedule : s.inputs = cycle :: cycles) (rst : .rst ∈ cycle)
      (after : t = applyReset (beginStep cycles s))
  | applies (input : PortInput) (others : List PortInput) (cycles : List (List PortInput))
      (schedule : s.inputs = (input :: others) :: cycles) (notRst : input ≠ .rst)
      (noRst : .rst ∉ others)
      (after : applyInput input (beginStep (afterFirst others cycles) s) = .next t)

theorem steps_of_step {s t : State} (h : step s = .next t) : Steps s t := by
  match hs : s.inputs with
  | [] => exact .waits hs (Host.Outcome.next.inj ((step_idle hs).symm.trans h)).symm
  | [] :: cycles => exact .skips cycles hs (Host.Outcome.next.inj ((step_empty hs).symm.trans h)).symm
  | (input :: others) :: cycles =>
    by_cases hr : PortInput.rst ∈ input :: others
    · exact .resets _ cycles hs hr (Host.Outcome.next.inj ((step_rst hs hr).symm.trans h)).symm
    · obtain ⟨hi, ho⟩ := not_or.mp (List.mem_cons.not.mp hr)
      exact .applies input others cycles hs (Ne.symm hi) ho ((step_input hs (Ne.symm hi) ho).symm.trans h)

/-- A handshake is a port event or moves nothing. -/
theorem runEvent_eq (e : PortEvent) (s : State) :
    (∃ i, decodeEvent s.regs.scPhase s.regs.txBusy e = some i ∧ runEvent e s = exec i s) ∨
      runEvent e s = .next s := by
  cases hd : decodeEvent s.regs.scPhase s.regs.txBusy e with
  | some i => exact .inl ⟨i, rfl, runEvent_some hd⟩
  | none => exact .inr (runEvent_none hd)

/-- Any input but a transaction and reset is a handshake, or delivers bytes. -/
theorem applyInput_eq {input : PortInput} (hr : input ≠ .rst) (hw : ∀ img, input ≠ .word img)
    (s : State) :
    (∃ e, applyInput input s = runEvent e s) ∨ ∃ bytes, applyInput input s = .next (deliver bytes s) := by
  cases input with
  | word img => exact absurd rfl (hw img)
  | rxValid =>
    cases hrx : s.rxChannel with
    | nil => exact .inr ⟨[], by rw [applyInput_rxValid_empty hrx, deliver, List.append_nil]⟩
    | cons b rest => exact .inl ⟨.rx b, applyInput_rxValid hrx⟩
  | timeout => exact .inl ⟨.timeout, rfl⟩
  | txReady => exact .inl ⟨.txReady, rfl⟩
  | arrive bytes => exact .inr ⟨bytes, rfl⟩
  | rst => exact absurd rfl hr

/-- So whatever every port event and every delivery does, such an input does. -/
theorem applyInput_event_cases {input : PortInput} (hr : input ≠ .rst) (hw : ∀ img, input ≠ .word img)
    {s t : State} (h : applyInput input s = .next t) :
    (∃ e i, decodeEvent s.regs.scPhase s.regs.txBusy e = some i ∧ exec i s = .next t) ∨
      ∃ bytes, t = deliver bytes s := by
  obtain ⟨e, he⟩ | ⟨bytes, hb⟩ := applyInput_eq hr hw s
  · obtain ⟨i, hi, hrun⟩ | hrun := runEvent_eq e s
    · exact .inl ⟨e, i, hi, by rw [← hrun, ← he, h]⟩
    · obtain rfl := Host.Outcome.next.inj (hrun.symm.trans (he.symm.trans h))
      exact .inr ⟨[], by rw [deliver, List.append_nil]⟩
  · exact .inr ⟨bytes, (Host.Outcome.next.inj (hb.symm.trans h)).symm⟩

/-- A port event drives no result (R242). -/
theorem decodeEvent_drivesResult {phase : ScPhase} {txBusy : Bool} {e : PortEvent} {i : Instr}
    (h : decodeEvent phase txBusy e = some i) : drivesResult i = false := by
  cases e with
  | rx b => cases phase <;> cases h <;> rfl
  | timeout => cases h; rfl
  | txReady => cases txBusy <;> cases h; rfl

/-! ### `ADDR` and the parameters -/

theorem exec_keeps_addr {i : Instr} {s t : State} (hi : ∀ a, i ≠ .cfgSetAddr a)
    (h : exec i s = .next t) : t.regs.addr = s.regs.addr :=
  (registersHaveOnlyTheirWriters i s t h).1 hi

/-- An input other than reset leaves `ADDR`, or is a CFG_SET_ADDR of its new value. -/
theorem applyInput_addr {input : PortInput} (hr : input ≠ .rst) {s t : State}
    (h : applyInput input s = .next t) :
    t.regs.addr = s.regs.addr ∨
      ∃ img a, input = .word img ∧ decode img = .ok (.cfgSetAddr a) ∧ t.regs.addr = a := by
  by_cases hw : ∃ img, input = .word img
  · obtain ⟨img, rfl⟩ := hw
    cases hd : decode img with
    | error e => cases (runWord_error hd s).symm.trans h
    | ok i =>
      have hexec : exec i s = .next t := (runWord_ok hd s).symm.trans h
      by_cases hi : ∃ a, i = .cfgSetAddr a
      · obtain ⟨a, rfl⟩ := hi
        cases hexec
        exact .inr ⟨img, a, rfl, hd, rfl⟩
      · exact .inl (exec_keeps_addr (not_exists.mp hi) hexec)
  · obtain ⟨e, i, hi, hexec⟩ | ⟨bytes, rfl⟩ := applyInput_event_cases hr (not_exists.mp hw) h
    · refine .inl (exec_keeps_addr (fun a ha => ?_) hexec)
      subst ha
      cases decodeEvent_drivesResult hi
    · exact .inl rfl

/-- Settles O42: the first clause of O43, and the steps' cases. -/
theorem addrWrittenOnlyByConfigAndReset : Obligations.AddrWrittenOnlyByConfigAndReset := by
  refine ⟨fun i s t hi h => ⟨exec_keeps_addr hi h, (exec_cases h).params⟩,
    fun s t h => ⟨(step_cases h).1, fun hne => ?_⟩⟩
  cases steps_of_step h with
  | waits hs ht => exact absurd (congrArg (·.regs.addr) ht) hne
  | skips cycles hs ht => exact absurd (congrArg (·.regs.addr) ht) hne
  | resets cycle cycles hs hr ht => exact ⟨cycle, cycles, hs, .inl hr⟩
  | applies input others cycles hs hi ho ht =>
    obtain hsame | ⟨img, a, rfl, hd, ha⟩ := applyInput_addr hi ht
    · exact absurd hsame hne
    · exact ⟨_, cycles, hs, .inr ⟨img, a, rfl, hd, ha⟩⟩

end Sys2Proof.Machine
end

/-! ## No error is sticky, no result outlasts its operation (O44; spec/60_exceptions.md R244;
spec/10_state.md R30) -/

section
namespace Sys2Proof.Machine

/-! ### Earlier results play no part -/

/-- The state with other results on the port and in the record. -/
def State.withResults (out : Outputs) (results : List Outputs) (s : State) : State :=
  { s with out := out, results := results }

/-- Two next states that differ at most in the results of earlier operations; `drives` says whether the
port shows a result of this one. -/
structure SameEffect (drives : Bool) (t u : State) : Prop where
  regs : u.regs = t.regs
  params : u.params = t.params
  rxChannel : u.rxChannel = t.rxChannel
  txChannel : u.txChannel = t.txChannel
  inputs : u.inputs = t.inputs
  out : drives = true → u.out = t.out

section

variable (out : Outputs) (results : List Outputs)

@[simp] theorem withResults_regs (s : State) : (s.withResults out results).regs = s.regs := rfl

/-- What an operation drives is all that its port shows, whatever it showed before. -/
theorem sameEffect_drive {e : Outputs} {r : Regs} {s t : State}
    (h : (Host.Outcome.next (drive e { s with regs := r }) : Answer) = .next t) :
    ∃ u, (Host.Outcome.next (drive e { s.withResults out results with regs := r }) : Answer) = .next u ∧
      SameEffect true t u := by
  cases h
  exact ⟨_, rfl, rfl, rfl, rfl, rfl, rfl, fun _ => rfl⟩

/-- A port event hands on the results it finds. -/
theorem sameEffect_withResults {x : Answer} {t : State} (h : x = .next (t.withResults out results)) :
    ∃ u, x = .next u ∧ SameEffect false t u :=
  ⟨_, h, rfl, rfl, rfl, rfl, rfl, fun hd => nomatch hd⟩

theorem execBuild_sameEffect {body : Body} {n : Nat} {s t : State} (h : execBuild body n s = .next t) :
    ∃ u, execBuild body n (s.withResults out results) = .next u ∧ SameEffect true t u := by
  rcases le_or_gt n 23 with hn | hn
  · rw [execBuild_next hn] at h ⊢
    exact sameEffect_drive out results h
  · cases (execBuild_refused hn body s).symm.trans h

theorem execStatusDecode_sameEffect {f : Frame} {s t : State} (h : execStatusDecode f s = .next t) :
    ∃ u, execStatusDecode f (s.withResults out results) = .next u ∧ SameEffect true t u := by
  cases hl : layoutAdmitted s.params.layout with
  | true =>
    rw [execStatusDecode_next hl] at h
    rw [execStatusDecode_next (s := s.withResults out results) hl]
    exact sameEffect_drive out results h
  | false => cases (execStatusDecode_refused hl f).symm.trans h

theorem execSend_sameEffect {f : Frame} {s t : State} (h : execSend f s = .next t) :
    ∃ u, execSend f (s.withResults out results) = .next u ∧ SameEffect true t u := by
  cases hb : s.regs.txBusy with
  | true =>
    rw [execSend_busy f hb] at h
    rw [execSend_busy (s := s.withResults out results) f hb]
    exact sameEffect_drive out results h
  | false =>
    rw [execSend_idle f hb] at h
    rw [execSend_idle (s := s.withResults out results) f hb]
    exact sameEffect_drive out results h

theorem execScanStart_sameEffect {m : BitVec 16} {s t : State} (h : execScanStart m s = .next t) :
    ∃ u, execScanStart m (s.withResults out results) = .next u ∧ SameEffect true t u := by
  cases hb : scanBusy s.regs with
  | true =>
    rw [execScanStart_busy m hb] at h
    rw [execScanStart_busy (s := s.withResults out results) m hb]
    exact sameEffect_drive out results h
  | false =>
    rw [execScanStart_idle m hb] at h
    rw [execScanStart_idle (s := s.withResults out results) m hb]
    exact sameEffect_drive out results h

theorem rawCommand_sameEffect {code : Byte} {p : List Byte} {s t : State}
    (h : rawCommand code p s = .next t) :
    ∃ u, rawCommand code p (s.withResults out results) = .next u ∧ SameEffect true t u := by
  obtain ⟨hp, rfl⟩ := rawCommand_cases h
  rw [rawCommand_next hp]
  exact sameEffect_drive out results (s := s) rfl

theorem sameEffect_buildCommand_drive (code : Byte) (p : List Byte) (e : Outputs) (s : State) :
    SameEffect true (buildCommand code p (drive e s))
      (buildCommand code p (drive e (s.withResults out results))) :=
  ⟨rfl, rfl, rfl, rfl, rfl, fun _ => rfl⟩

theorem numericCommand_sameEffect {code : Byte} {w : BitVec 3} {v : Rat} {s t : State}
    (h : numericCommand code w v s = .next t) :
    ∃ u, numericCommand code w v (s.withResults out results) = .next u ∧ SameEffect true t u := by
  rw [← Host.Outcome.next.inj h]
  exact ⟨_, rfl, sameEffect_buildCommand_drive out results code _
    (encnumResult s.params.tieRule v w) s⟩

/-! #### Port events -/

theorem rxPull_withResults (b : Byte) (s : State) :
    rxPull b (s.withResults out results) = (rxPull b s).map (State.withResults out results) := by
  obtain ⟨regs, params, o, rs, rx, tx, inputs⟩ := s
  cases rx with
  | nil => rfl
  | cons c rest => by_cases hc : c = b <;> simp [rxPull, State.withResults, hc]

/-- A port event that completes, completes with any results, and leaves those. -/
theorem execRxByteFill_withResults {b : Byte} {s t : State} (h : execRxByteFill b s = .next t) :
    execRxByteFill b (s.withResults out results) = .next (t.withResults out results) := by
  by_cases hp : s.regs.scPhase = .fill
  · rw [execRxByteFill, if_pos hp] at h
    rw [execRxByteFill, withResults_regs, if_pos hp, rxPull_withResults]
    generalize fillByte b s.regs = r at h ⊢
    cases hs : rxPull b s with
    | none => rw [hs] at h; rw [← Host.Outcome.next.inj h]; rfl
    | some s' => rw [hs] at h; rw [← Host.Outcome.next.inj h]; rfl
  · rw [execRxByteFill_otherPhase hp] at h
    rw [execRxByteFill_otherPhase (s := s.withResults out results) hp, Host.Outcome.next.inj h]

theorem execRxByteHunt_withResults {b : Byte} {s t : State} (h : execRxByteHunt b s = .next t) :
    execRxByteHunt b (s.withResults out results) = .next (t.withResults out results) := by
  by_cases hp : s.regs.scPhase = .hunt
  · rw [execRxByteHunt, if_pos hp] at h
    rw [execRxByteHunt, withResults_regs, if_pos hp, rxPull_withResults]
    generalize huntByte b s.regs = r at h ⊢
    cases hs : rxPull b s with
    | none => rw [hs] at h; rw [← Host.Outcome.next.inj h]; rfl
    | some s' => rw [hs] at h; rw [← Host.Outcome.next.inj h]; rfl
  · rw [execRxByteHunt_otherPhase hp] at h
    rw [execRxByteHunt_otherPhase (s := s.withResults out results) hp, Host.Outcome.next.inj h]

theorem execRxTimeout_withResults {s t : State} (h : execRxTimeout s = .next t) :
    execRxTimeout (s.withResults out results) = .next (t.withResults out results) := by
  cases hb : scanBusy s.regs with
  | true =>
    rw [execRxTimeout_busy hb] at h
    rw [execRxTimeout_busy (s := s.withResults out results) hb, ← Host.Outcome.next.inj h]
    rfl
  | false =>
    rw [execRxTimeout_ignored hb] at h
    rw [execRxTimeout_ignored (s := s.withResults out results) hb, Host.Outcome.next.inj h]

theorem execTxByte_withResults {s t : State} (h : execTxByte s = .next t) :
    execTxByte (s.withResults out results) = .next (t.withResults out results) := by
  cases hb : s.regs.txBusy with
  | true =>
    rcases lt_or_ge s.regs.txIdx 26 with hlt | hge
    · rw [execTxByte_next hlt hb] at h
      rw [execTxByte_next (s := s.withResults out results) hlt hb, ← Host.Outcome.next.inj h]
      rfl
    · cases (execTxByte_beyond hb hge).symm.trans h
  | false =>
    rw [execTxByte_idle hb] at h
    rw [execTxByte_idle (s := s.withResults out results) hb, Host.Outcome.next.inj h]

/-- The scanner is idle, or a receive handshake is one of its two events or finds no byte. -/
theorem rxHandshake_withResults {s t : State} (h : rxHandshake s = .next t) :
    rxHandshake (s.withResults out results) = .next (t.withResults out results) := by
  cases hrx : s.rxChannel with
  | nil =>
    simp only [rxHandshake, hrx] at h
    simp only [rxHandshake, State.withResults, hrx, ← Host.Outcome.next.inj h]
  | cons b rest =>
    cases hp : s.regs.scPhase with
    | fill =>
      rw [rxHandshake_fill hrx hp] at h
      rw [rxHandshake_fill (s := s.withResults out results) hrx hp]
      exact execRxByteFill_withResults out results h
    | hunt =>
      rw [rxHandshake_hunt hrx hp] at h
      rw [rxHandshake_hunt (s := s.withResults out results) hrx hp]
      exact execRxByteHunt_withResults out results h
    | idle =>
      rw [rxHandshake_notBusy (.inl hp)] at h
      rw [rxHandshake_notBusy (s := s.withResults out results) (.inl hp), Host.Outcome.next.inj h]
    | done =>
      rw [rxHandshake_notBusy (.inr hp)] at h
      rw [rxHandshake_notBusy (s := s.withResults out results) (.inr hp), Host.Outcome.next.inj h]

/-! #### Every instruction -/

theorem exec_sameEffect {i : Instr} {s t : State} (h : exec i s = .next t) :
    ∃ u, exec i (s.withResults out results) = .next u ∧ SameEffect (drivesResult i) t u := by
  cases i with
  | build body n => exact execBuild_sameEffect out results h
  | statusDecode f => exact execStatusDecode_sameEffect out results h
  | send f => exact execSend_sameEffect out results h
  | scanStart m => exact execScanStart_sameEffect out results h
  | rxByteFill b => exact sameEffect_withResults out results (execRxByteFill_withResults out results h)
  | rxByteHunt b => exact sameEffect_withResults out results (execRxByteHunt_withResults out results h)
  | rxTimeout => exact sameEffect_withResults out results (execRxTimeout_withResults out results h)
  | txByte => exact sameEffect_withResults out results (execTxByte_withResults out results h)
  | startByte =>
    exact sameEffect_withResults out results
      (rxHandshake_withResults out results (s := deliver [marker] s) h)
  | calMode p => exact rawCommand_sameEffect out results h
  | calState p => exact rawCommand_sameEffect out results h
  | calReadV p => exact rawCommand_sameEffect out results h
  | calSendV p => exact rawCommand_sameEffect out results h
  | calReadI p => exact rawCommand_sameEffect out results h
  | calSendI p => exact rawCommand_sameEffect out results h
  | calSaveData p => exact rawCommand_sameEffect out results h
  | calSetInfo p => exact rawCommand_sameEffect out results h
  | calReadInfo p => exact rawCommand_sameEffect out results h
  | readID p => exact rawCommand_sameEffect out results h
  | calReset p => exact rawCommand_sameEffect out results h
  | enaLocalKey p => exact rawCommand_sameEffect out results h
  | setLimitV v => exact numericCommand_sameEffect out results h
  | setOutputV v => exact numericCommand_sameEffect out results h
  | setOutputI a => exact numericCommand_sameEffect out results h
  | _ => exact sameEffect_drive out results h

end

/-! ### No result outlasts its operation -/

/-- What drives no result leaves the port as it finds it. -/
theorem exec_keeps_out {i : Instr} (hi : drivesResult i = false) {s t : State}
    (h : exec i s = .next t) : t.out = s.out := by
  cases i with
  | rxByteFill b => exact (execRxByteFill_receivesOnly h).out
  | rxByteHunt b => exact (execRxByteHunt_receivesOnly h).out
  | rxTimeout => exact (execRxTimeout_receivesOnly h).out
  | txByte => exact (execTxByte_keeps_results h).1
  | startByte => exact (execStartByte_receivesOnly h).out
  | _ => cases hi

theorem applyInput_keeps_out {input : PortInput} (hr : input ≠ .rst) (hw : ∀ img, input ≠ .word img)
    {s t : State} (h : applyInput input s = .next t) : t.out = s.out := by
  obtain ⟨e, i, hi, hexec⟩ | ⟨bytes, rfl⟩ := applyInput_event_cases hr hw h
  · exact exec_keeps_out (decodeEvent_drivesResult hi) hexec
  · rfl

/-- A step that leaves a result on the port is a transaction that drives one. -/
theorem step_drives {s t : State} (h : step s = .next t) (hout : t.out ≠ .undriven) :
    ∃ img i others cycles, s.inputs = (.word img :: others) :: cycles ∧ .rst ∉ others ∧
      decode img = .ok i ∧ drivesResult i = true := by
  cases steps_of_step h with
  | waits hs ht => exact absurd (congrArg (·.out) ht) hout
  | skips cycles hs ht => exact absurd (congrArg (·.out) ht) hout
  | resets cycle cycles hs hr ht => exact absurd (congrArg (·.out) ht) hout
  | applies input others cycles hs hi ho ht =>
    by_cases hw : ∃ img, input = .word img
    · obtain ⟨img, rfl⟩ := hw
      cases hd : decode img with
      | error e => cases (runWord_error hd _).symm.trans ht
      | ok i =>
        refine ⟨img, i, others, cycles, hs, ho, hd, ?_⟩
        by_contra hdrives
        exact hout (exec_keeps_out (Bool.not_eq_true _ ▸ hdrives) ((runWord_ok hd _).symm.trans ht))
    · exact absurd (applyInput_keeps_out hi (not_exists.mp hw) ht) hout

theorem envInput_event (e : EnvEvent) : e.input ≠ .rst ∧ ∀ img, e.input ≠ .word img := by
  cases e <;> simp [EnvEvent.input]

/-- A turn of the environment begins with the port at its defaults, and no event drives it. -/
theorem envTurn_out (p : HostParams) (h : HostState) (e : EnvEvent) :
    (takeTurn p h (.env e)).block.out = .undriven := by
  obtain ⟨hr, hw⟩ := envInput_event e
  simp only [takeTurn, envTurn, HostState.afterOp]
  split
  next t ht => exact applyInput_keeps_out hr hw ht
  all_goals rfl

/-- Settles O44: `exec_sameEffect`, `step_drives`, and the environment's turn. -/
theorem errorsAreNotSticky : Obligations.ErrorsAreNotSticky := by
  refine ⟨fun i s t out results h => ?_, fun s t h hout => step_drives h hout, envTurn_out⟩
  obtain ⟨u, hu, heffect⟩ := exec_sameEffect out results h
  exact ⟨u, hu, heffect.regs, heffect.params, heffect.rxChannel, heffect.txChannel, heffect.inputs,
    heffect.out⟩

end Sys2Proof.Machine
end

/-! ## Nothing stops a ready machine (O41; spec/60_exceptions.md R240; spec/43_validators.md R212) -/

section
namespace Sys2Proof.Machine

/-! ### Instructions -/

theorem rawCommand_total {p : List Byte} (h : payloadFits p = true) (code : Byte) (s : State) :
    ∃ t, rawCommand code p s = .next t := ⟨_, rawCommand_next (of_decide_eq_true h)⟩

theorem execSend_total (f : Frame) (s : State) : ∃ t, execSend f s = .next t := by
  cases hb : s.regs.txBusy with
  | true => exact ⟨_, execSend_busy f hb⟩
  | false => exact ⟨_, execSend_idle f hb⟩

theorem execTxByte_total {s : State} (h : s.regs.txBusy = true → s.regs.txIdx < 26) :
    ∃ t, execTxByte s = .next t := by
  cases hb : s.regs.txBusy with
  | true => exact ⟨_, execTxByte_next (h hb) hb⟩
  | false => exact ⟨_, execTxByte_idle hb⟩

theorem execRxTimeout_total (s : State) : ∃ t, execRxTimeout s = .next t := by
  cases hb : scanBusy s.regs with
  | true => exact ⟨_, execRxTimeout_busy hb⟩
  | false => exact ⟨_, execRxTimeout_ignored hb⟩

theorem execRxByteFill_total (b : Byte) (s : State) : ∃ t, execRxByteFill b s = .next t := by
  unfold execRxByteFill
  split
  · split <;> exact ⟨_, rfl⟩
  · exact ⟨_, rfl⟩

theorem execRxByteHunt_total (b : Byte) (s : State) : ∃ t, execRxByteHunt b s = .next t := by
  unfold execRxByteHunt
  split
  · split <;> exact ⟨_, rfl⟩
  · exact ⟨_, rfl⟩

theorem rxHandshake_total (s : State) : ∃ t, rxHandshake s = .next t := by
  unfold rxHandshake
  split
  · exact ⟨_, rfl⟩
  · split
    · exact execRxByteFill_total _ s
    · exact execRxByteHunt_total _ s
    · exact ⟨_, rfl⟩
    · exact ⟨_, rfl⟩

theorem exec_total {i : Instr} {s : State} (hs : Ready s) (hi : i.wellFormed = true) :
    ∃ t, exec i s = .next t := by
  cases i with
  | build body n => exact ⟨_, execBuild_next (of_decide_eq_true hi) body s⟩
  | statusDecode f => exact ⟨_, execStatusDecode_next hs.layout f⟩
  | send f => exact execSend_total f s
  | scanStart m =>
    obtain ⟨t, ht, -⟩ := execScanStart_ne_badOperand m s
    exact ⟨t, ht⟩
  | rxByteFill b => exact execRxByteFill_total b s
  | rxByteHunt b => exact execRxByteHunt_total b s
  | rxTimeout => exact execRxTimeout_total s
  | txByte => exact execTxByte_total hs.tx
  | startByte => exact rxHandshake_total _
  | calMode p => exact rawCommand_total hi _ s
  | calState p => exact rawCommand_total hi _ s
  | calReadV p => exact rawCommand_total hi _ s
  | calSendV p => exact rawCommand_total hi _ s
  | calReadI p => exact rawCommand_total hi _ s
  | calSendI p => exact rawCommand_total hi _ s
  | calSaveData p => exact rawCommand_total hi _ s
  | calSetInfo p => exact rawCommand_total hi _ s
  | calReadInfo p => exact rawCommand_total hi _ s
  | readID p => exact rawCommand_total hi _ s
  | calReset p => exact rawCommand_total hi _ s
  | enaLocalKey p => exact rawCommand_total hi _ s
  | _ => exact ⟨_, rfl⟩

/-! ### Steps -/

/-- A transaction that decodes is well formed, and so is the event of a handshake. -/
theorem applyInput_total {input : PortInput} {s : State} (hs : Ready s)
    (hd : ∀ img, input = .word img → ∃ i, decode img = .ok i) :
    ∃ t, applyInput input s = .next t := by
  by_cases hr : input = .rst
  · subst hr
    exact ⟨_, rfl⟩
  by_cases hw : ∃ img, input = .word img
  · obtain ⟨img, rfl⟩ := hw
    obtain ⟨i, hi⟩ := hd img rfl
    obtain ⟨t, ht⟩ := exec_total hs (decode_carried hi).1
    exact ⟨t, (runWord_ok hi s).trans ht⟩
  · obtain ⟨e, he⟩ | ⟨bytes, hb⟩ := applyInput_eq hr (not_exists.mp hw) s
    · obtain ⟨i, hi, hrun⟩ | hrun := runEvent_eq e s
      · obtain ⟨t, ht⟩ := exec_total hs (decodeEvent_open hi).1
        exact ⟨t, he.trans (hrun.trans ht)⟩
      · exact ⟨s, he.trans hrun⟩
    · exact ⟨_, hb⟩

theorem step_total {s : State} (hs : Ready s) (hd : ScheduleDecodes s) : ∃ t, step s = .next t := by
  match hi : s.inputs with
  | [] => exact ⟨_, step_idle hi⟩
  | [] :: cycles => exact ⟨_, step_empty hi⟩
  | (input :: others) :: cycles =>
    by_cases hr : PortInput.rst ∈ input :: others
    · exact ⟨_, step_rst hi hr⟩
    · obtain ⟨hne, ho⟩ := not_or.mp (List.mem_cons.not.mp hr)
      rw [step_input hi (Ne.symm hne) ho]
      refine applyInput_total ⟨hs.layout, hs.tx⟩ fun img himg => ?_
      exact hd (input :: others) (by rw [hi]; exact .head _) img (by rw [himg]; exact .head _)

theorem mem_afterFirst {others cycle : List PortInput} {cycles : List (List PortInput)}
    (h : cycle ∈ afterFirst others cycles) : cycle = others ∨ cycle ∈ cycles := by
  rw [afterFirst_eq] at h
  split at h
  · exact .inr h
  · exact List.mem_cons.mp h

/-- A step takes inputs off the schedule and adds none. -/
theorem step_keeps_scheduleDecodes {s t : State} (hd : ScheduleDecodes s) (h : step s = .next t) :
    ScheduleDecodes t := by
  cases steps_of_step h with
  | waits hs ht =>
    subst ht
    exact hd
  | skips cycles hs ht =>
    subst ht
    exact fun cycle hc => hd cycle (hs ▸ .tail _ hc)
  | resets cycle cycles hs _ ht =>
    subst ht
    exact fun cycle' hc => hd cycle' (hs ▸ .tail _ hc)
  | applies input others cycles hs hi _ ht =>
    have hinputs : t.inputs = afterFirst others cycles := (applyInput_cases hi ht).inputs
    intro cycle hc img himg
    obtain rfl | hc := mem_afterFirst (hinputs ▸ hc)
    · exact hd (input :: cycle) (by rw [hs]; exact .head _) img (.tail _ himg)
    · exact hd cycle (hs ▸ .tail _ hc) img himg

/-- R28 is what a frame under transmission needs. -/
theorem ready_of_inv {s : State} (hs : StateInv s) (hl : layoutAdmitted s.params.layout = true) :
    Ready s := ⟨hl, hs.txBusyIff.mp⟩

/-- Settles O41: an instruction at a time, then an input at a time; a step keeps the invariant (O39) and
takes inputs off the schedule. -/
theorem nothingStopsAReadyMachine : Obligations.NothingStopsAReadyMachine := by
  refine ⟨fun i s hs hi => exec_total hs hi, fun s hs hl hd => ?_⟩
  obtain ⟨t, ht⟩ := step_total (ready_of_inv hs hl) hd
  exact ⟨t, ht, step_keeps_stateInv hs ht, step_keeps_scheduleDecodes hd ht⟩

end Sys2Proof.Machine
end

/-! ## A frame is transmitted (O29; spec/40_codec.md R110, R111; spec/20_memory.md R53) -/

section
namespace Sys2Proof.Machine

/-- A run that has come to a state goes on from there. -/
theorem run_add {j : Nat} {s t : State} (h : Host.Core.run Sys2Proof.core j s = .next t) (k : Nat) :
    Host.Core.run Sys2Proof.core (j + k) s = Host.Core.run Sys2Proof.core k t := by
  induction j generalizing s with
  | zero => rw [Nat.zero_add, ← Host.Outcome.next.inj h]
  | succ j ih =>
    obtain ⟨s', hs, hrun⟩ := run_succ_cases h
    rw [Nat.add_right_comm, run_next hs, ih hrun]

/-- The image of a transaction that decodes to it (O1), for the cycles that hold it alone. -/
theorem step_encoded {s : State} {i : Instr} {img : List Byte} {cycles : List (List PortInput)}
    (hw : i.wellFormed = true) (hi : encode i = .word img) (hs : s.inputs = [.word img] :: cycles) :
    step s = exec i (beginStep cycles s) :=
  step_word_ok hs (by simp) (laneRoundTrip i hw img hi)

/-- The transmitter after a SEND of `f` and `k` offers of tx_ready; `sent` was transmitted before. -/
structure Transmitted (f : Frame) (sent : List Byte) (k : Nat) (s : State) : Prop where
  txBuf : s.regs.txBuf = f
  txIdx : s.regs.txIdx = min k 26
  txBusy : s.regs.txBusy = decide (k < 26)
  txChannel : s.txChannel = sent ++ f.toList.take k

/-- One more offer transmits the byte at offset `k`, and none after offset 25 (R111). -/
theorem Transmitted.step {f : Frame} {sent : List Byte} {k : Nat} {s : State}
    {cycles : List (List PortInput)} (h : Transmitted f sent k s)
    (hs : s.inputs = [.txReady] :: cycles) :
    ∃ t, step s = .next t ∧ Transmitted f sent (k + 1) t ∧ t.rxChannel = s.rxChannel ∧
      t.inputs = cycles := by
  have hstep : Machine.step s = runEvent .txReady (beginStep cycles s) :=
    step_input hs (by simp) (by simp)
  by_cases hk : k < 26
  · have hbusy : s.regs.txBusy = true := by simp [h.txBusy, hk]
    have hidx : s.regs.txIdx = k := by rw [h.txIdx]; omega
    refine ⟨_, (hstep.trans (runEvent_txReady_busy (s := beginStep cycles s) hbusy)).trans
      (execTxByte_next (s := beginStep cycles s) (by simp [hidx, hk]) hbusy), ?_, rfl, rfl⟩
    have hbyte : s.regs.txBuf[s.regs.txIdx]'(by omega) = f.toList[k]'(by simpa using hk) := by
      simp [h.txBuf, hidx]
    refine ⟨h.txBuf, ?_, ?_, ?_⟩
    · show s.regs.txIdx + 1 = min (k + 1) 26
      omega
    · show (advanceTx s.regs).txBusy = decide (k + 1 < 26)
      rw [advanceTx_of_busy hbusy, hidx, decide_eq_decide]
      omega
    · show s.txChannel ++ [s.regs.txBuf[s.regs.txIdx]'(by omega)] = sent ++ f.toList.take (k + 1)
      rw [hbyte, h.txChannel, List.append_assoc, List.take_append_getElem]
  · have hidle : s.regs.txBusy = false := by simp [h.txBusy, hk]
    refine ⟨_, hstep.trans (runEvent_txReady_idle (s := beginStep cycles s) hidle), ?_, rfl, rfl⟩
    refine ⟨h.txBuf, ?_, ?_, ?_⟩
    · simp [h.txIdx]; omega
    · simp [hidle]; omega
    · have hall (j : Nat) (hj : 26 ≤ j) : f.toList.take j = f.toList :=
        List.take_of_length_le (by simpa using hj)
      simp [h.txChannel, hall k (by omega), hall (k + 1) (by omega)]

theorem Transmitted.run {f : Frame} {sent : List Byte} {k n : Nat} {s : State}
    (h : Transmitted f sent k s) (hs : s.inputs = List.replicate n [.txReady]) :
    ∃ t, Host.Core.run Sys2Proof.core n s = .next t ∧ Transmitted f sent (k + n) t ∧
      t.rxChannel = s.rxChannel ∧ t.inputs = [] := by
  induction n generalizing k s with
  | zero => exact ⟨s, run_zero s, h, rfl, hs⟩
  | succ n ih =>
    obtain ⟨s', hstep, hsent, hrx, hinputs⟩ := h.step hs
    obtain ⟨t, hrun, hsent', hrx', hend⟩ := ih hsent hinputs
    refine ⟨t, (run_next hstep n).trans hrun, ?_, hrx'.trans hrx, hend⟩
    rwa [Nat.add_right_comm] at hsent'

/-- Settles O29: the SEND is accepted, and each offer transmits the next byte while there is one. -/
theorem sendThenHandshakesTransmitTheFrame : Obligations.SendThenHandshakesTransmitTheFrame := by
  intro s f img k hidle himg hs
  obtain ⟨s', hsend, hop, -⟩ :=
    sendStartsOrReportsBusy.2.1 f (beginStep (List.replicate k [.txReady]) s) hidle
  have hstep : step s = .next s' := (step_encoded rfl himg hs).trans hsend
  have hstart : Transmitted f s.txChannel 0 s' := by
    refine ⟨?_, ?_, ?_, by simpa using hop.txChannel⟩ <;> rw [hop.regs]
    · rfl
    · rfl
  obtain ⟨t, hrun, hsent, hrx, hend⟩ := hstart.run hop.inputs
  refine ⟨t, (run_next hstep k).trans hrun, ?_, hsent.txBuf, ?_, ?_, hrx.trans hop.rxChannel, hend⟩
  · rw [hsent.txChannel, Nat.zero_add]
  · rw [hsent.txIdx, Nat.zero_add]
  · rw [hsent.txBusy, Nat.zero_add, decide_eq_true_iff]

end Sys2Proof.Machine
end

/-! ## The scanner refines the scan function (O35; spec/42_scanner.md R171 to R178) -/

section
namespace Sys2Proof.Machine

/-- Too few bytes to end the scan, and no marker in a window that is whole: the scan waits. -/
theorem scanFrom_undecided (tmo : Bool) {left : Nat} (p : Nat) {bytes : List Byte}
    (hlen : bytes.length < 26 + left) (hno : ∀ q, 26 + q ≤ bytes.length → bytes[q]? ≠ some marker) :
    scanFrom tmo left p bytes =
      ⟨if tmo then .timeout else .stillBusy, zeroFrame.toList, p + bytes.length⟩ := by
  induction left generalizing p bytes with
  | zero => exact scanFrom_short tmo 0 p bytes hlen
  | succ left ih =>
    rcases lt_or_ge bytes.length 26 with hshort | hwhole
    · exact scanFrom_short tmo _ p bytes hshort
    · have h0 : bytes.head? ≠ some marker := List.head?_eq_getElem? ▸ hno 0 hwhole
      have htail (q : Nat) (hq : 26 + q ≤ bytes.tail.length) : bytes.tail[q]? ≠ some marker :=
        List.getElem?_tail ▸ hno (q + 1) (by rw [List.length_tail] at hq; omega)
      rw [scanFrom_next tmo left p bytes hwhole h0, List.drop_one,
        ih (p + 1) (by rw [List.length_tail]; omega) htail, List.length_tail]
      congr 1
      omega

/-! ### What the registers hold while a scan is under way -/

section

variable {m : BitVec 16} {got : List Byte} {r : Regs}

/-- The window and the counters after the bytes `got`. -/
structure HasRead (m : BitVec 16) (got : List Byte) (r : Regs) : Prop where
  win : r.scWin.toList = (zeroFrame.toList ++ got).drop got.length
  fill : r.scFill = min got.length 26
  extra : r.scExtra = got.length - 26
  max : r.scMax = m
  count : r.scCount = got.length
  tmo : r.scTmo = false

/-- The scan has taken the bytes `got` and goes on. -/
structure Scanning (m : BitVec 16) (got : List Byte) (r : Regs) : Prop where
  read : HasRead m got r
  ends : EndsAs (if got.length < 26 then .fill else .hunt) zeroFrame false r
  bound : got.length < 26 + m.toNat
  noMarker : ∀ q, 26 + q ≤ got.length → got[q]? ≠ some marker

/-- The scan has ended with the last of the bytes `got`, as the function has it whatever follows. -/
structure Finished (m : BitVec 16) (got : List Byte) (r : Regs) : Prop where
  phase : r.scPhase = .done
  tmo : r.scTmo = false
  count : r.scCount = got.length
  result : ∀ (rest : List Byte) (tmo : Bool), scan (got ++ rest) m.toNat tmo =
    ⟨if r.scSync then .sync else .fail, r.scFrame.toList, got.length⟩

theorem scanning_startScan (m : BitVec 16) (r : Regs) : Scanning m [] (startScan m r) where
  read := ⟨rfl, rfl, rfl, rfl, rfl, rfl⟩
  ends := ⟨rfl, rfl, rfl⟩
  bound := Nat.lt_add_right _ (by decide)
  noMarker q hq := by simp

/-! ### One byte -/

/-- A whole window holds the bytes from position `p` on. -/
theorem HasRead.win_eq_drop (h : HasRead m got r) {p : Nat} (hp : got.length = 26 + p) :
    r.scWin.toList = got.drop p := by
  rw [h.win, hp]
  exact List.drop_length_add_append (l₁ := zeroFrame.toList) p

theorem HasRead.marker_iff (h : HasRead m got r) {p : Nat} (hp : got.length = 26 + p) :
    r.scWin[0] = marker ↔ got[p]? = some marker := by
  have hfront : r.scWin.toList[0]? = got[p]? := by rw [h.win_eq_drop hp]; simp
  rw [← hfront]
  simp

/-- The window with one byte more. -/
theorem HasRead.win_append (h : HasRead m got r) (b : Byte) :
    (shiftIn r.scWin b).toList = (zeroFrame.toList ++ (got ++ [b])).drop (got ++ [b]).length := by
  rw [shiftIn_toList, h.win, List.tail_drop, ← List.append_assoc, List.length_append,
    List.length_singleton,
    List.drop_append_of_le_length (l₁ := zeroFrame.toList ++ got) (by simp)]

theorem HasRead.fillByte (h : HasRead m got r) (hlen : got.length < 26) (b : Byte) :
    HasRead m (got ++ [b]) (fillByte b r) := by
  have htakes := fillByte_takes b r
  obtain ⟨hfill, hextra⟩ := fillByte_counts b r
  refine ⟨by rw [htakes.win, h.win_append], ?_, ?_, htakes.keeps.scMax.trans h.max, ?_,
    htakes.keeps.scTmo.trans h.tmo⟩ <;> rw [List.length_append, List.length_singleton]
  · rw [hfill, h.fill]; omega
  · rw [hextra, h.extra]; omega
  · rw [htakes.count, h.count]

theorem HasRead.huntByte (h : HasRead m got r) (hlen : 26 ≤ got.length) (b : Byte) :
    HasRead m (got ++ [b]) (huntByte b r) := by
  have htakes := huntByte_takes b r
  obtain ⟨hfill, hextra⟩ := huntByte_counts b r
  refine ⟨by rw [htakes.win, h.win_append], ?_, ?_, htakes.keeps.scMax.trans h.max, ?_,
    htakes.keeps.scTmo.trans h.tmo⟩ <;> rw [List.length_append, List.length_singleton]
  · rw [hfill, h.fill]; omega
  · rw [hextra, h.extra]; omega
  · rw [htakes.count, h.count]

/-! ### The end of the scan -/

/-- The marker at the front of the window: the function locks on the same position (R180). -/
theorem HasRead.sync (h : HasRead m got r) {p : Nat} (hp : got.length = 26 + p) (hpm : p ≤ m.toNat)
    (hno : ∀ q, q < p → got[q]? ≠ some marker) (hm : r.scWin[0] = marker)
    (hends : EndsAs .done r.scWin true r) : Finished m got r := by
  obtain ⟨hphase, hframe, hsync⟩ := hends
  refine ⟨hphase, h.tmo, h.count, fun rest tmo => ?_⟩
  have hat (q : Nat) (hq : q ≤ p) : (got ++ rest)[q]? = got[q]? :=
    List.getElem?_append_left (by omega)
  have hlocks := (scanLocksOnTheFirstMarker (got ++ rest) m.toNat tmo).1 p hpm
    (by rw [List.length_append]; omega) (by rw [hat p le_rfl]; exact (h.marker_iff hp).mp hm)
    (fun q hq => by rw [hat q hq.le]; exact hno q hq)
  rw [hlocks, hsync, hframe, h.win_eq_drop hp, hp, List.drop_append_of_le_length (by omega),
    List.take_left' (by rw [List.length_drop]; omega)]
  rfl

/-- No marker in any position of the bound: the function fails there too (R181). -/
theorem HasRead.fail (h : HasRead m got r) (hlen : got.length = 26 + m.toNat)
    (hno : ∀ q, q ≤ m.toNat → got[q]? ≠ some marker) (hends : EndsAs .done zeroFrame false r) :
    Finished m got r := by
  obtain ⟨hphase, hframe, hsync⟩ := hends
  refine ⟨hphase, h.tmo, h.count, fun rest tmo => ?_⟩
  have hfails := (scanLocksOnTheFirstMarker (got ++ rest) m.toNat tmo).2
    (by rw [List.length_append]; omega)
    (fun q hq => by rw [List.getElem?_append_left (by omega)]; exact hno q hq)
  rw [hfails, hsync, hframe, hlen]
  rfl

/-- A whole window has just been read: the marker test, then the bound test (R172, R173). -/
theorem HasRead.tested (h : HasRead m got r) {p : Nat} (hp : got.length = 26 + p) (hpm : p ≤ m.toNat)
    (hno : ∀ q, q < p → got[q]? ≠ some marker)
    (hmarker : r.scWin[0] = marker → EndsAs .done r.scWin true r)
    (hlast : r.scWin[0] ≠ marker → p = m.toNat → EndsAs .done zeroFrame false r)
    (hnext : r.scWin[0] ≠ marker → p ≠ m.toNat → EndsAs .hunt zeroFrame false r) :
    Scanning m got r ∨ Finished m got r := by
  by_cases hm : r.scWin[0] = marker
  · exact .inr (h.sync hp hpm hno hm (hmarker hm))
  · have hall (q : Nat) (hq : q ≤ p) : got[q]? ≠ some marker := by
      obtain rfl | hlt := hq.eq_or_lt
      · exact mt (h.marker_iff hp).mpr hm
      · exact hno q hlt
    by_cases hbound : p = m.toNat
    · exact .inr (h.fail (hbound ▸ hp) (hbound ▸ hall) (hlast hm hbound))
    · refine .inl ⟨h, ?_, by omega, fun q hq => hall q (by omega)⟩
      rw [if_neg (by omega)]
      exact hnext hm hbound

/-- The bytes before the last one hold no marker where a window begins. -/
theorem Scanning.noMarker_append (h : Scanning m got r) (b : Byte) {q : Nat}
    (hq : 26 + q < (got ++ [b]).length) : (got ++ [b])[q]? ≠ some marker := by
  rw [List.length_append, List.length_singleton] at hq
  rw [List.getElem?_append_left (by omega)]
  exact h.noMarker q (by omega)

theorem Scanning.fillByte (h : Scanning m got r) (hlen : got.length < 26) (b : Byte) :
    Scanning m (got ++ [b]) (fillByte b r) ∨ Finished m (got ++ [b]) (fillByte b r) := by
  have hread := h.read.fillByte hlen b
  have hlen' : (got ++ [b]).length = got.length + 1 := List.length_append
  obtain ⟨hphase, hframe, hsync⟩ := h.ends
  rw [if_pos hlen] at hphase
  have hfill : r.scFill = got.length := by rw [h.read.fill]; omega
  have hmax : r.scMax = 0 ↔ 0 = m.toNat := by
    rw [h.read.max, eq_comm (a := 0), ← BitVec.toNat_inj]; rfl
  by_cases hlast : got.length + 1 = 26
  · have hlast' : r.scFill + 1 = 26 := by omega
    refine hread.tested (p := 0) (by omega) (Nat.zero_le _) (fun q hq => nomatch hq)
      (fillByte_marker hlast') (fun hm hx => fillByte_noExtra hlast' hm (hmax.mpr hx))
      (fun hm hx => ?_)
    rw [← hframe, ← hsync]
    exact fillByte_toHunt hlast' hm (mt hmax.mp hx)
  · refine .inl ⟨hread, ?_, by omega, fun q hq => by omega⟩
    rw [if_pos (by omega), ← hframe, ← hsync]
    exact fillByte_notLast hphase (by omega)

theorem Scanning.huntByte (h : Scanning m got r) (hlen : 26 ≤ got.length) (b : Byte) :
    Scanning m (got ++ [b]) (huntByte b r) ∨ Finished m (got ++ [b]) (huntByte b r) := by
  have hread := h.read.huntByte hlen b
  have hlen' : (got ++ [b]).length = got.length + 1 := List.length_append
  obtain ⟨hphase, hframe, hsync⟩ := h.ends
  rw [if_neg hlen.not_gt] at hphase
  have hbound := h.bound
  have hextra : (Machine.huntByte b r).scExtra = got.length - 25 := by rw [hread.extra]; omega
  have hmax : (Machine.huntByte b r).scExtra = r.scMax.toNat ↔ got.length - 25 = m.toNat := by
    rw [hextra, h.read.max]
  refine hread.tested (p := got.length - 25) (by omega) (by omega)
    (fun q hq => h.noMarker_append b (by omega)) huntByte_marker
    (fun hm hx => huntByte_lastExtra hm (hmax.mpr hx)) (fun hm hx => ?_)
  rw [← hframe, ← hsync]
  exact huntByte_goesOn hphase hm (mt hmax.mp hx)

end

/-! ### Runs of receive handshakes -/

/-- A receive handshake in a busy scan takes the channel's oldest byte. -/
theorem Scanning.step {m : BitVec 16} {got rest : List Byte} {b : Byte} {s : State}
    {cycles : List (List PortInput)} (h : Scanning m got s.regs) (hrx : s.rxChannel = b :: rest)
    (hs : s.inputs = [.rxValid] :: cycles) :
    ∃ t, step s = .next t ∧ (Scanning m (got ++ [b]) t.regs ∨ Finished m (got ++ [b]) t.regs) ∧
      t.rxChannel = rest ∧ t.inputs = cycles := by
  have hstep : Machine.step s = runEvent (.rx b) (beginStep cycles s) :=
    (step_input hs (by simp) (by simp)).trans (applyInput_rxValid (s := beginStep cycles s) hrx)
  have hphase := h.ends.1
  by_cases hlen : got.length < 26
  · rw [if_pos hlen] at hphase
    obtain ⟨t, ht, hrest, hregs, honly⟩ :=
      execRxByteFill_takes (s := beginStep cycles s) hphase (.inl hrx)
    refine ⟨t, hstep.trans ((runEvent_rx_fill (s := beginStep cycles s) b hphase).trans ht), ?_,
      hrest, honly.inputs⟩
    rw [hregs]
    exact h.fillByte hlen b
  · rw [if_neg hlen] at hphase
    obtain ⟨t, ht, hrest, hregs, honly⟩ :=
      execRxByteHunt_takes (s := beginStep cycles s) hphase (.inl hrx)
    refine ⟨t, hstep.trans ((runEvent_rx_hunt (s := beginStep cycles s) b hphase).trans ht), ?_,
      hrest, honly.inputs⟩
    rw [hregs]
    exact h.huntByte (not_lt.mp hlen) b

/-- After the end of a scan a receive handshake moves nothing (R177). -/
theorem step_rxValid_done {s : State} {cycles : List (List PortInput)} (hp : s.regs.scPhase = .done)
    (hs : s.inputs = [.rxValid] :: cycles) : step s = .next (beginStep cycles s) := by
  refine (step_input hs (by simp) (by simp)).trans ?_
  cases hrx : s.rxChannel with
  | nil => exact applyInput_rxValid_empty hrx
  | cons b rest =>
    exact (applyInput_rxValid (s := beginStep cycles s) hrx).trans
      (runEvent_rx_notBusy (s := beginStep cycles s) b (.inr hp))

theorem run_rxValid_done {n : Nat} {s : State} {cycles : List (List PortInput)}
    (hp : s.regs.scPhase = .done) (hs : s.inputs = List.replicate n [.rxValid] ++ cycles) :
    ∃ t, Host.Core.run Sys2Proof.core n s = .next t ∧ t.regs = s.regs ∧
      t.rxChannel = s.rxChannel ∧ t.inputs = cycles := by
  induction n generalizing s with
  | zero => exact ⟨s, run_zero s, rfl, rfl, hs⟩
  | succ n ih =>
    obtain ⟨t, hrun, hregs, hrx, hend⟩ := ih (s := beginStep _ s) hp rfl
    exact ⟨t, (run_next (step_rxValid_done hp hs) n).trans hrun, hregs, hrx, hend⟩

/-- Where a scan stands that has been offered all of `bytes`, `got` before them: it goes on, or it has
ended and left the rest in the channel. -/
def Offered (m : BitVec 16) (got bytes : List Byte) (t : State) : Prop :=
  (Scanning m (got ++ bytes) t.regs ∧ t.rxChannel = []) ∨
    ∃ used, Finished m (got ++ used) t.regs ∧ bytes = used ++ t.rxChannel

theorem Scanning.run {m : BitVec 16} {got bytes : List Byte} {s : State}
    {cycles : List (List PortInput)} (h : Scanning m got s.regs) (hrx : s.rxChannel = bytes)
    (hs : s.inputs = List.replicate bytes.length [.rxValid] ++ cycles) :
    ∃ t, Host.Core.run Sys2Proof.core bytes.length s = .next t ∧ Offered m got bytes t ∧
      t.inputs = cycles := by
  induction bytes generalizing got s with
  | nil => exact ⟨s, run_zero s, .inl ⟨by rwa [List.append_nil], hrx⟩, hs⟩
  | cons b rest ih =>
    obtain ⟨s', hstep, hscan | hfin, hrest, hinputs⟩ := h.step hrx hs
    · obtain ⟨t, hrun, hoffered, hend⟩ := ih hscan hrest hinputs
      refine ⟨t, (run_next hstep _).trans hrun, ?_, hend⟩
      obtain ⟨hscan', hempty⟩ | ⟨used, hfin', hsplit⟩ := hoffered
      · exact .inl ⟨by rwa [List.append_assoc] at hscan', hempty⟩
      · exact .inr ⟨b :: used, by rwa [List.append_assoc] at hfin', by rw [List.cons_append, ← hsplit]⟩
    · obtain ⟨t, hrun, hregs, hrx', hend⟩ := run_rxValid_done hfin.phase hinputs
      exact ⟨t, (run_next hstep _).trans hrun, .inr ⟨[b], hregs ▸ hfin, by rw [hrx', hrest]; rfl⟩, hend⟩

/-! ### What the function says of the state -/

/-- The state shows the function's result for the bytes of the channel (R178). -/
structure Shows (bytes : List Byte) (res : ScanResult) (t : State) : Prop where
  frame : t.regs.scFrame.toList = res.frame
  sync : t.regs.scSync = true ↔ res.outcome = .sync
  tmo : t.regs.scTmo = true ↔ res.outcome = .timeout
  count : t.regs.scCount = res.consumed
  channel : t.rxChannel = bytes.drop res.consumed
  busy : (t.regs.scPhase = .fill ∨ t.regs.scPhase = .hunt) ↔ res.outcome = .stillBusy

theorem Finished.shows {m : BitVec 16} {used bytes : List Byte} {t : State} (h : Finished m used t.regs)
    (hsplit : bytes = used ++ t.rxChannel) (tmo : Bool) : Shows bytes (scan bytes m.toNat tmo) t := by
  rw [hsplit, h.result]
  cases hsync : t.regs.scSync <;>
    exact ⟨rfl, by simp [hsync], by simp [h.tmo], h.count, by simp, by simp [h.phase]⟩

theorem Scanning.scan_eq {m : BitVec 16} {bytes : List Byte} {r : Regs} (h : Scanning m bytes r)
    (tmo : Bool) : scan bytes m.toNat tmo =
      ⟨if tmo then .timeout else .stillBusy, zeroFrame.toList, bytes.length⟩ := by
  rw [scan, scanFrom_undecided tmo 0 h.bound h.noMarker, Nat.zero_add]

theorem Scanning.busy {m : BitVec 16} {bytes : List Byte} {r : Regs} (h : Scanning m bytes r) :
    r.scPhase = .fill ∨ r.scPhase = .hunt := by
  rw [h.ends.1]
  split
  · exact .inl rfl
  · exact .inr rfl

theorem Scanning.shows {m : BitVec 16} {bytes : List Byte} {t : State} (h : Scanning m bytes t.regs)
    (hrx : t.rxChannel = []) : Shows bytes (scan bytes m.toNat false) t := by
  obtain ⟨-, hframe, hsync⟩ := h.ends
  rw [h.scan_eq]
  exact ⟨by rw [hframe], by simp [hsync], by simp [h.read.tmo], h.read.count, by simp [hrx],
    by simp [h.busy]⟩

/-- The pulse ends a scan that still waits. -/
theorem Scanning.timeout {m : BitVec 16} {bytes : List Byte} {s : State} (h : Scanning m bytes s.regs)
    (hrx : s.rxChannel = []) :
    ∃ t, execRxTimeout s = .next t ∧ Shows bytes (scan bytes m.toNat true) t := by
  refine ⟨_, execRxTimeout_busy ((scanBusy_iff _).mpr h.busy), ?_⟩
  rw [h.scan_eq]
  exact ⟨rfl, by simp, by simp, h.read.count, by simp [hrx], by simp⟩

theorem step_timeout {s : State} {cycles : List (List PortInput)} (hs : s.inputs = [.timeout] :: cycles) :
    step s = execRxTimeout (beginStep cycles s) := step_input hs (by simp) (by simp)

/-- The last input: a timeout pulse or none. -/
theorem Offered.ending {m : BitVec 16} {bytes : List Byte} {s : State} (h : Offered m [] bytes s)
    (tmo : Bool) (hs : s.inputs = if tmo then [[.timeout]] else []) :
    ∃ t, Host.Core.run Sys2Proof.core s.inputs.length s = .next t ∧
      Shows bytes (scan bytes m.toNat tmo) t := by
  cases tmo with
  | false =>
    refine ⟨s, by rw [hs]; exact run_zero s, ?_⟩
    obtain ⟨hscan, hempty⟩ | ⟨used, hfin, hsplit⟩ := h
    · exact hscan.shows hempty
    · exact hfin.shows hsplit false
  | true =>
    have hone (t : State) (ht : execRxTimeout (beginStep [] s) = .next t) :
        Host.Core.run Sys2Proof.core s.inputs.length s = .next t := by
      rw [hs]
      exact (run_next ((step_timeout hs).trans ht) 0).trans (run_zero t)
    obtain ⟨hscan, hempty⟩ | ⟨used, hfin, hsplit⟩ := h
    · obtain ⟨t, ht, hshows⟩ := Scanning.timeout (s := beginStep [] s) hscan hempty
      exact ⟨t, hone t ht, hshows⟩
    · have hignored := execRxTimeout_ignored (s := beginStep [] s) (scanBusy_false (.inr hfin.phase))
      exact ⟨_, hone _ hignored, Finished.shows (t := beginStep [] s) hfin hsplit true⟩

/-- Settles O35: SCAN_START begins the scan, the handshakes offer it the channel's bytes, and what it
shows after the last input is the function's result. -/
theorem scannerRefinesTheScanFunction : Obligations.ScannerRefinesTheScanFunction := by
  intro s m img tmo res hp himg hs hres
  obtain ⟨s₁, hexec, -, hop⟩ := scanStartBeginsOrReportsBusy.2.1 m (beginStep
    (List.replicate s.rxChannel.length [.rxValid] ++ if tmo then [[.timeout]] else []) s) hp
  have hstart : step s = .next s₁ := (step_encoded rfl himg hs).trans hexec
  have hscan : Scanning m [] s₁.regs := hop.regs ▸ scanning_startScan m s.regs
  obtain ⟨s₂, hrun, hoffered, hend⟩ := hscan.run (bytes := s.rxChannel) hop.rxChannel hop.inputs
  obtain ⟨t, hlast, hshows⟩ := hoffered.ending tmo hend
  subst hres
  refine ⟨t, ?_, hshows.frame, hshows.sync, hshows.tmo, hshows.count, hshows.channel, hshows.busy⟩
  rw [hs, List.length_cons, List.length_append, List.length_replicate, run_next hstart, run_add hrun,
    ← hend]
  exact hlast

end Sys2Proof.Machine
end

/-! ## The host's procedures (O58, O60; spec/60_exceptions.md R252 to R257)

`Turned` says once what a turn can do; the counts of written frames and the order of `close()`'s
operations are read off it. -/

section
namespace Sys2Proof.Machine

/-! ### Bytes on the transmit port -/

theorem SameBlock.txTotal {s t : State} (h : SameBlock s t) : txTotal t = txTotal s := by
  rw [Machine.txTotal, h.regs, h.txChannel, Machine.txTotal]

theorem KeepsNonScan.txPending {r r' : Regs} (h : KeepsNonScan r r') : txPending r' = txPending r := by
  rw [Machine.txPending, h.txBusy, h.txIdx, Machine.txPending]

theorem txTotal_eq {s t : State} (hr : txPending t.regs = txPending s.regs)
    (hc : t.txChannel = s.txChannel) : txTotal t = txTotal s := by
  rw [txTotal, hr, hc, txTotal]

/-- A transmitted byte was pending before. -/
theorem txPending_advanceTx {r : Regs} (hb : r.txBusy = true) (hlt : r.txIdx < 26) :
    1 + txPending (advanceTx r) = txPending r := by
  rw [advanceTx_of_busy hb]
  simp only [txPending, hb, if_true, decide_eq_true_eq]
  split <;> omega

/-- Only an accepted SEND adds bytes to those transmitted or about to be. -/
theorem exec_keeps_txTotal {i : Instr} {s t : State} (hi : ∀ f, i ≠ .send f)
    (h : exec i s = .next t) : txTotal t = txTotal s := by
  cases exec_writes h with
  | reports same => exact same.txTotal
  | cfgSetAddr regs _ tx => exact txTotal_eq (by rw [regs]; rfl) tx
  | send => exact absurd rfl (hi _)
  | txByte busy left regs _ tx =>
    rw [txTotal, regs, tx, List.length_append, List.length_singleton, Nat.add_assoc,
      txPending_advanceTx busy left, txTotal]
  | scanStart regs _ tx => exact txTotal_eq (by rw [regs]; rfl) tx
  | rxTimeout regs _ tx => exact txTotal_eq (by rw [regs]; rfl) tx
  | rxByteFill keeps tx => exact txTotal_eq keeps.txPending tx
  | rxByteHunt keeps tx => exact txTotal_eq keeps.txPending tx
  | startByte keeps tx => exact txTotal_eq keeps.txPending tx

/-- A frame that is accepted is 26 bytes about to be transmitted. -/
theorem execSend_txTotal {s : State} (f : Frame) (hb : s.regs.txBusy = false) :
    ∃ t, execSend f s = .next t ∧ txTotal t = txTotal s + 26 := by
  refine ⟨_, execSend_idle f hb, ?_⟩
  simp [txTotal, txPending, hb]

theorem envInput_keeps_txTotal {e : EnvEvent} {s t : State} (h : applyInput e.input s = .next t) :
    txTotal t = txTotal s := by
  obtain ⟨hr, hw⟩ := envInput_event e
  obtain ⟨e', i, hi, hexec⟩ | ⟨bytes, rfl⟩ := applyInput_event_cases hr hw h
  · refine exec_keeps_txTotal (fun f hf => ?_) hexec
    subst hf
    cases decodeEvent_drivesResult hi
  · rfl

/-! ### What a turn can do -/

/-- What one turn makes of a host: it stays where it is (whatever the transport does), or goes on in
R252's or R253's loop. -/
inductive Turned (p : HostParams) (h h' : HostState) : Prop where
  | stays {t : State} (tx : txTotal t = txTotal h.block) (after : h' = { h with block := t })
  | begins {task : HostTask} {rest : List HostTask} {frame : Frame} {t : State}
      (pc : h.pc = .ready) (todo : h.todo = task :: rest) (tx : txTotal t = txTotal h.block)
      (after : h' = ⟨t, .waitTx task frame 1, rest, h.reports⟩)
  | rejects {task : HostTask} {rest : List HostTask} {t : State}
      (pc : h.pc = .ready) (todo : h.todo = task :: rest) (tx : txTotal t = txTotal h.block)
      (after : h' = ⟨t, .ready, rest, h.reports ++ [.callerError]⟩)
  | noAttempt {task : HostTask} {rest : List HostTask} {t : State} (zero : p.maxAttempts = 0)
      (pc : h.pc = .ready) (todo : h.todo = task :: rest)
      (after : h' = ⟨t, .ready, rest, h.reports ++ [task.failure 0 .none false]⟩)
  | sends {task : HostTask} {frame : Frame} {j : Nat} {t : State} (pc : h.pc = .waitTx task frame j)
      (tx : txTotal t = txTotal h.block + 26)
      (after : h' = ⟨t, .startScan task frame j, h.todo, h.reports⟩)
  | scans {task : HostTask} {frame : Frame} {j : Nat} {t : State} (pc : h.pc = .startScan task frame j)
      (tx : txTotal t = txTotal h.block) (after : h' = ⟨t, .waitScan task frame j, h.todo, h.reports⟩)
  | succeeds {task : HostTask} {frame : Frame} {j : Nat} {snap : Snapshot} {t : State}
      (pc : h.pc = .waitScan task frame j) (tx : txTotal t = txTotal h.block)
      (after : h' = ⟨t, .ready, h.todo, h.reports ++ [task.done j snap]⟩)
  | retries {task : HostTask} {frame : Frame} {j : Nat} {t : State} (left : j < p.maxAttempts)
      (pc : h.pc = .waitScan task frame j) (tx : txTotal t = txTotal h.block)
      (after : h' = ⟨t, .waitTx task frame (j + 1), h.todo, h.reports⟩)
  | givesUp {task : HostTask} {frame : Frame} {j : Nat} {e : ErrCode} {tmo : Bool} {t : State}
      (noneLeft : p.maxAttempts ≤ j) (pc : h.pc = .waitScan task frame j)
      (tx : txTotal t = txTotal h.block)
      (after : h' = ⟨t, .ready, h.todo, h.reports ++ [task.failure j e tmo]⟩)

section

variable {p : HostParams} {h : HostState}

theorem afterOp_next {a : Answer} {t : State} (ha : a = .next t) (h : HostState)
    (k : State → HostState) : h.afterOp a k = k t := by
  rw [ha]
  rfl

theorem Turned.stays_self (p : HostParams) (h : HostState) : Turned p h h := .stays rfl rfl

/-! #### Beginning a task -/

/-- A task begins with its frame built, or a number out of range is reported (R252 to R254, R256). -/
inductive Begun (p : HostParams) (h : HostState) (task : HostTask) (h' : HostState) : Prop where
  | frame {t : State} (tx : txTotal t = txTotal h.block) (after : h' = h.firstAttempt p task t)
  | reject {t : State} (tx : txTotal t = txTotal h.block)
      (after : h' = { h with block := t, reports := h.reports ++ [.callerError] })

theorem begun_of_exec {i : Instr} {s : State} {task : HostTask} (hs : txTotal s = txTotal h.block)
    (hi : ∀ f, i ≠ .send f) (hnext : ∃ t, exec i s = .next t) :
    Begun p h task (h.afterOp (exec i s) (h.firstAttempt p task)) := by
  obtain ⟨t, ht⟩ := hnext
  exact .frame ((exec_keeps_txTotal hi ht).trans hs) (afterOp_next ht h _)

/-- ENCNUM completes, and gives BUILD no more bytes than its widest field has. -/
theorem exec_encnum_bytes (v : Rat) (w : BitVec 3) (s : State) :
    ∃ t, exec (.encnum v w) s = .next t ∧ t.out.bytes.length ≤ 4 := by
  refine ⟨_, rfl, ?_⟩
  rw [drive_out]
  by_cases hw : legalWidth w = true
  · rw [encnumResult_legal hw, (encnumDriven_spec _ _).2.1]
    exact ((legalWidth_iff_range w).mp hw).2
  · rw [encnumResult_illegal hw]
    exact Nat.zero_le _

theorem numericTask_begun (task : HostTask) (code : Byte) (w : BitVec 3) (v : Rat) :
    Begun p h task (h.numericTask p task code w v) := by
  obtain ⟨e, he, hlen⟩ := exec_encnum_bytes v w h.block
  have htx := exec_keeps_txTotal (by simp) he
  rw [HostState.numericTask, afterOp_next he]
  split
  · exact begun_of_exec htx (by simp) ⟨_, execBuild_next (by omega) _ e⟩
  · exact .reject htx rfl

theorem beginTask_begun (p : HostParams) (h : HostState) (task : HostTask) :
    Begun p h task (h.beginTask p task) := by
  cases task with
  | oneShot op =>
    cases op with
    | outputEnable en => exact begun_of_exec (i := .outputEnable en) rfl (by simp) ⟨_, rfl⟩
    | remoteControl en => exact begun_of_exec (i := .remoteEnable en) rfl (by simp) ⟨_, rfl⟩
    | setOutputVoltage v => exact numericTask_begun _ _ _ v
    | setOutputCurrent a => exact numericTask_begun _ _ _ a
    | setMaximumVoltage v => exact numericTask_begun _ _ _ v
  | send body n =>
    exact begun_of_exec rfl (by simp) ⟨_, execBuild_next (Nat.le_of_lt_succ n.isLt) body h.block⟩
  | queryStatus => exact begun_of_exec (i := .readConfig) rfl (by simp) ⟨_, rfl⟩

/-- A host that begins a task has left it behind: it makes the first attempt, or reports at once. -/
theorem Begun.turned {h' : HostState} {task : HostTask} {rest : List HostTask} (hpc : h.pc = .ready)
    (htodo : h.todo = task :: rest) (hb : Begun p { h with todo := rest } task h') : Turned p h h' := by
  cases hb with
  | frame tx after =>
    unfold HostState.firstAttempt at after
    split at after
    next h0 => exact .noAttempt h0 hpc htodo (by rw [after, hpc])
    next => exact .begins hpc htodo tx after
  | reject tx after => exact .rejects hpc htodo tx (by rw [after, hpc])

/-! #### The loop -/

/-- What judges a frame sends none. -/
theorem judgeOp_ne_send (task : HostTask) (response f : Frame) : task.judgeOp response ≠ .send f := by
  cases task <;> simp [HostTask.judgeOp]

theorem judge_turned {task : HostTask} {frame : Frame} {j : Nat} (hpc : h.pc = .waitScan task frame j) :
    Turned p h (h.judge p task frame j) := by
  unfold HostState.judge
  cases hx : exec (task.judgeOp h.block.regs.scFrame) h.block with
  | fault e => exact .stays_self p h
  | refused e => exact .stays_self p h
  | next t =>
    have htx := exec_keeps_txTotal (judgeOp_ne_send task _) hx
    rw [afterOp_next rfl]
    split
    · exact .succeeds hpc htx rfl
    · unfold HostState.retry
      split
      next hlt => exact .retries hlt hpc htx rfl
      next hge => exact .givesUp (not_lt.mp hge) hpc htx rfl

theorem hostTurn_turned (p : HostParams) (h : HostState) : Turned p h (hostTurn p h) := by
  cases hpc : h.pc with
  | ready =>
    cases htodo : h.todo with
    | nil =>
      simp only [hostTurn, hpc, htodo]
      exact .stays_self p h
    | cons task rest =>
      rw [hostTurn_ready hpc htodo]
      exact (beginTask_begun p { h with todo := rest } task).turned hpc htodo
  | waitTx task frame j =>
    simp only [hostTurn, hpc]
    cases hb : h.block.regs.txBusy with
    | true => exact .stays_self p h
    | false =>
      obtain ⟨t, ht, htx⟩ := execSend_txTotal frame hb
      exact .sends hpc htx (afterOp_next ht h _)
  | startScan task frame j =>
    simp only [hostTurn, hpc]
    obtain ⟨t, ht, -⟩ := execScanStart_ne_badOperand p.maxExtra h.block
    exact .scans hpc (exec_keeps_txTotal (i := .scanStart p.maxExtra) (by simp) ht) (afterOp_next ht h _)
  | waitScan task frame j =>
    simp only [hostTurn, hpc]
    split
    · exact judge_turned hpc
    · exact .stays_self p h

theorem envTurn_turned (p : HostParams) (h : HostState) (e : EnvEvent) : Turned p h (envTurn e h) := by
  unfold envTurn
  cases hx : applyInput e.input h.block with
  | fault f => exact .stays_self p h
  | refused r => exact .stays_self p h
  | next t => exact .stays (envInput_keeps_txTotal hx) rfl

/-- A turn begins by taking the last results off the port, which changes nothing that `Turned` speaks
of. -/
theorem takeTurn_turned (p : HostParams) (h : HostState) (turn : Turn) :
    Turned p h (takeTurn p h turn) := by
  have hturn : Turned p h.beginTurn (takeTurn p h turn) := by
    cases turn with
    | host => exact hostTurn_turned p h.beginTurn
    | env e => exact envTurn_turned p h.beginTurn e
  cases hturn with
  | stays tx after => exact .stays tx after
  | begins pc todo tx after => exact .begins pc todo tx after
  | rejects pc todo tx after => exact .rejects pc todo tx after
  | noAttempt zero pc todo after => exact .noAttempt zero pc todo after
  | sends pc tx after => exact .sends pc tx after
  | scans pc tx after => exact .scans pc tx after
  | succeeds pc tx after => exact .succeeds pc tx after
  | retries left pc tx after => exact .retries left pc tx after
  | givesUp noneLeft pc tx after => exact .givesUp noneLeft pc tx after

end

/-- What every turn keeps, every run of turns keeps. -/
theorem hostRun_keeps {p : HostParams} {P : HostState → Prop}
    (hturn : ∀ h h', P h → Turned p h h' → P h') (turns : List Turn) {h : HostState} (hh : P h) :
    P (hostRun p turns h) := by
  induction turns generalizing h with
  | nil => exact hh
  | cons turn turns ih => exact ih (hturn h _ hh (takeTurn_turned p h turn))

/-! ### The write-count law (R257) -/

/-- A report accounts for `n` bytes written. -/
def HostReport.Accounts (p : HostParams) (n : Nat) : HostReport → Prop
  | .success j => 1 ≤ j ∧ j ≤ p.maxAttempts ∧ n = 26 * j
  | .status j _ => 1 ≤ j ∧ j ≤ p.maxAttempts ∧ n = 26 * j
  | .transmitFailure j _ _ => j = p.maxAttempts ∧ n = 26 * p.maxAttempts
  | .queryFailure j _ _ => j = p.maxAttempts ∧ n = 26 * p.maxAttempts
  | .callerError => n = 0

/-- A host with one task has written `n` bytes for it where it stands: before attempt `j` the frames of
the attempts before, after its SEND one more, and in the end what the report accounts for. -/
def HostCounts (p : HostParams) (n : Nat) (todo : List HostTask) (reports : List HostReport) :
    HostPc → Prop
  | .ready => (todo.length = 1 ∧ reports = [] ∧ n = 0) ∨
      (todo = [] ∧ ∃ rep, reports = [rep] ∧ rep.Accounts p n)
  | .waitTx _ _ j => todo = [] ∧ reports = [] ∧ 1 ≤ j ∧ j ≤ p.maxAttempts ∧ n + 26 = 26 * j
  | .startScan _ _ j => todo = [] ∧ reports = [] ∧ 1 ≤ j ∧ j ≤ p.maxAttempts ∧ n = 26 * j
  | .waitScan _ _ j => todo = [] ∧ reports = [] ∧ 1 ≤ j ∧ j ≤ p.maxAttempts ∧ n = 26 * j

/-- A task that waits with nothing reported is the first and only one. -/
theorem HostCounts.first {p : HostParams} {n : Nat} {task : HostTask} {rest : List HostTask}
    {reports : List HostReport} (h : HostCounts p n (task :: rest) reports .ready) :
    rest = [] ∧ reports = [] ∧ n = 0 := by
  obtain ⟨hlen, hreports, hn⟩ | ⟨hnil, -⟩ := h
  · exact ⟨List.eq_nil_of_length_eq_zero (Nat.succ.inj hlen), hreports, hn⟩
  · cases hnil

/-- The bytes are counted from `total` on. -/
def WritesFrom (p : HostParams) (total : Nat) (h : HostState) : Prop :=
  ∃ n, txTotal h.block = total + n ∧ HostCounts p n h.todo h.reports h.pc

theorem done_accounts {p : HostParams} {j : Nat} (h1 : 1 ≤ j) (hj : j ≤ p.maxAttempts) (task : HostTask)
    (snap : Snapshot) : (task.done j snap).Accounts p (26 * j) := by
  cases task <;> exact ⟨h1, hj, rfl⟩

theorem failure_accounts (p : HostParams) (task : HostTask) (e : ErrCode) (tmo : Bool) :
    (task.failure p.maxAttempts e tmo).Accounts p (26 * p.maxAttempts) := by
  cases task <;> exact ⟨rfl, rfl⟩

theorem Turned.keeps_writesFrom {p : HostParams} (hp : 1 ≤ p.maxAttempts) {total : Nat}
    {h h' : HostState} (hw : WritesFrom p total h) (ht : Turned p h h') : WritesFrom p total h' := by
  obtain ⟨n, htotal, hcounts⟩ := hw
  cases ht with
  | stays tx after =>
    subst after
    exact ⟨n, tx.trans htotal, hcounts⟩
  | begins pc todo tx after =>
    subst after
    rw [pc, todo] at hcounts
    obtain ⟨hrest, hreports, rfl⟩ := hcounts.first
    exact ⟨0, tx.trans htotal, hrest, hreports, le_rfl, hp, rfl⟩
  | rejects pc todo tx after =>
    subst after
    rw [pc, todo] at hcounts
    obtain ⟨hrest, hreports, rfl⟩ := hcounts.first
    exact ⟨0, tx.trans htotal, .inr ⟨hrest, .callerError, by rw [hreports]; rfl, rfl⟩⟩
  | noAttempt zero => omega
  | sends pc tx after =>
    subst after
    simp only [pc, HostCounts] at hcounts
    obtain ⟨htodo, hreports, h1, hj, hn⟩ := hcounts
    exact ⟨n + 26, by rw [tx, htotal, Nat.add_assoc], htodo, hreports, h1, hj, hn⟩
  | scans pc tx after =>
    subst after
    simp only [pc, HostCounts] at hcounts
    exact ⟨n, tx.trans htotal, hcounts⟩
  | succeeds pc tx after =>
    subst after
    simp only [pc, HostCounts] at hcounts
    obtain ⟨htodo, hreports, h1, hj, rfl⟩ := hcounts
    exact ⟨_, tx.trans htotal, .inr ⟨htodo, _, by rw [hreports]; rfl, done_accounts h1 hj _ _⟩⟩
  | retries left pc tx after =>
    subst after
    simp only [pc, HostCounts] at hcounts
    obtain ⟨htodo, hreports, -, -, rfl⟩ := hcounts
    exact ⟨_, tx.trans htotal, htodo, hreports, by omega, left, rfl⟩
  | givesUp noneLeft pc tx after =>
    subst after
    simp only [pc, HostCounts] at hcounts
    obtain ⟨htodo, hreports, -, hj, rfl⟩ := hcounts
    obtain rfl := le_antisymm hj noneLeft
    exact ⟨_, tx.trans htotal, .inr ⟨htodo, _, by rw [hreports]; rfl, failure_accounts p _ _ _⟩⟩

/-- A host that has reported is ready, and its report accounts for what was written. -/
theorem WritesFrom.accounts {p : HostParams} {total : Nat} {h : HostState} {rep : HostReport}
    (hw : WritesFrom p total h) (hrep : h.reports = [rep]) :
    ∃ n, txTotal h.block = total + n ∧ rep.Accounts p n := by
  obtain ⟨n, htotal, hcounts⟩ := hw
  refine ⟨n, htotal, ?_⟩
  rw [hrep] at hcounts
  cases hpc : h.pc with
  | ready =>
    rw [hpc] at hcounts
    obtain ⟨-, hnil, -⟩ | ⟨-, rep', heq, hacc⟩ := hcounts
    · cases hnil
    · cases heq
      exact hacc
  | waitTx task frame j => rw [hpc] at hcounts; cases hcounts.2.1
  | startScan task frame j => rw [hpc] at hcounts; cases hcounts.2.1
  | waitScan task frame j => rw [hpc] at hcounts; cases hcounts.2.1

theorem writesFrom_hostOf (p : HostParams) (s : State) (task : HostTask) :
    WritesFrom p (txTotal s) (hostOf s [task]) := ⟨0, rfl, .inl ⟨rfl, rfl, rfl⟩⟩

theorem hostRun_writesFrom {p : HostParams} (hp : 1 ≤ p.maxAttempts) (turns : List Turn) (s : State)
    (task : HostTask) : WritesFrom p (txTotal s) (hostRun p turns (hostOf s [task])) :=
  hostRun_keeps (fun _ _ hw ht => ht.keeps_writesFrom hp hw) turns (writesFrom_hostOf p s task)

/-- The first attempt's frame is the one that the task's operation drives. -/
theorem afterOp_firstAttempt {p : HostParams} (hp : 1 ≤ p.maxAttempts) {a : Answer} {t : State}
    (ha : a = .next t) (h : HostState) (task : HostTask) :
    h.afterOp a (h.firstAttempt p task) = { h with block := t, pc := .waitTx task t.out.frame 1 } := by
  rw [afterOp_next ha, firstAttempt_pos hp]

/-- Settles O58: the count is kept by every turn, and read off the report; a ready host does the BUILD
and waits to send its frame. -/
theorem hostWritesAsManyFramesAsAttempts : Obligations.HostWritesAsManyFramesAsAttempts := by
  refine ⟨fun p turns s task h _ hp hh => ?_, fun p h body n rest hp hpc htodo => ?_⟩
  · have hw : WritesFrom p (txTotal s) h := hh ▸ hostRun_writesFrom hp turns s task
    refine ⟨fun j hrep => ?_, fun j e tmo hrep => ?_, fun hrep => ?_⟩
    · obtain hrep | ⟨snap, hrep⟩ := hrep
      all_goals
        obtain ⟨n, htotal, h1, hj, rfl⟩ := hw.accounts hrep
        exact ⟨h1, hj, htotal⟩
    · obtain hrep | hrep := hrep
      all_goals
        obtain ⟨n, htotal, hj, rfl⟩ := hw.accounts hrep
        exact ⟨hj, htotal⟩
    · obtain ⟨n, htotal, rfl⟩ := hw.accounts hrep
      exact htotal
  · have hbuild := execBuild_next (Nat.le_of_lt_succ n.isLt) body h.block
    refine ⟨_, hbuild, ?_⟩
    rw [hostTurn_ready hpc htodo]
    exact afterOp_firstAttempt hp hbuild { h with todo := rest } (.send body n)

/-! ### `close()` (R254) -/

/-- The tasks not yet reported: the one under way, then the waiting ones. -/
def HostState.unreported (h : HostState) : List HostTask := h.pc.underWay ++ h.todo

/-- A turn reports nothing, or the first task that was unreported. -/
theorem Turned.reports_cases {p : HostParams} {h h' : HostState} (ht : Turned p h h') :
    (h'.unreported = h.unreported ∧ h'.reports = h.reports) ∨
      ∃ task rep, h.unreported = task :: h'.unreported ∧ h'.reports = h.reports ++ [rep] := by
  unfold HostState.unreported
  cases ht with
  | stays tx after => subst after; exact .inl ⟨rfl, rfl⟩
  | begins pc todo tx after => subst after; rw [pc, todo]; exact .inl ⟨rfl, rfl⟩
  | rejects pc todo tx after => subst after; rw [pc, todo]; exact .inr ⟨_, _, rfl, rfl⟩
  | noAttempt zero pc todo after => subst after; rw [pc, todo]; exact .inr ⟨_, _, rfl, rfl⟩
  | sends pc tx after => subst after; rw [pc]; exact .inl ⟨rfl, rfl⟩
  | scans pc tx after => subst after; rw [pc]; exact .inl ⟨rfl, rfl⟩
  | succeeds pc tx after => subst after; rw [pc]; exact .inr ⟨_, _, rfl, rfl⟩
  | retries left pc tx after => subst after; rw [pc]; exact .inl ⟨rfl, rfl⟩
  | givesUp noneLeft pc tx after => subst after; rw [pc]; exact .inr ⟨_, _, rfl, rfl⟩

/-- The host works through `tasks` in order: as many as it has reported are gone. -/
def WorksThrough (tasks : List HostTask) (h : HostState) : Prop :=
  h.unreported = tasks.drop h.reports.length ∧ h.reports.length ≤ tasks.length

theorem Turned.keeps_worksThrough {p : HostParams} {tasks : List HostTask} {h h' : HostState}
    (hw : WorksThrough tasks h) (ht : Turned p h h') : WorksThrough tasks h' := by
  obtain ⟨hleft, hle⟩ := hw
  obtain ⟨hsame, hreports⟩ | ⟨task, rep, hfirst, hreports⟩ := ht.reports_cases
  · exact ⟨by rw [hsame, hreports, hleft], by rw [hreports]; exact hle⟩
  · have hdrop : tasks.drop h.reports.length = task :: h'.unreported := hleft ▸ hfirst
    have hlt : h.reports.length < tasks.length := by
      rw [← not_le, ← List.drop_eq_nil_iff, hdrop]
      simp
    rw [WorksThrough, hreports, List.length_append, List.length_singleton, ← List.tail_drop, hdrop]
    exact ⟨rfl, hlt⟩

theorem hostRun_worksThrough (p : HostParams) (turns : List Turn) (s : State) (tasks : List HostTask) :
    WorksThrough tasks (hostRun p turns (hostOf s tasks)) :=
  hostRun_keeps (fun _ _ hw ht => ht.keeps_worksThrough hw) turns ⟨rfl, Nat.zero_le _⟩

/-- Settles O60: the host works through the two in order; a ready host builds the frame of the first
that waits, which is O51's, and goes to attempt 1. -/
theorem closeAttemptsBothOperations : Obligations.CloseAttemptsBothOperations := by
  refine ⟨fun p turns s h hh => ?_, fun p h rest hp hpc c hc htodo => ?_⟩
  · obtain ⟨hleft, hle⟩ : WorksThrough closeTasks h := hh ▸ hostRun_worksThrough p turns s closeTasks
    refine ⟨?_, hleft⟩
    have hlen : h.unreported.length = 2 - h.reports.length := by rw [hleft, List.length_drop]; rfl
    rw [HostState.unreported, List.length_append] at hlen
    have hle : h.reports.length ≤ 2 := hle
    omega
  · have hframe := booleanCommandsBuildTheirFrames false h.block (c.2.1, c.2.2)
    simp only [List.mem_cons, List.not_mem_nil, or_false] at hc
    rw [hostTurn_ready hpc htodo]
    obtain rfl | rfl := hc
    all_goals
      obtain ⟨t, ht, hop, -, hcommand⟩ := hframe (by simp)
      exact ⟨t, ht, hop, hcommand, afterOp_firstAttempt hp ht { h with todo := rest } _⟩

end Sys2Proof.Machine
end
